-- ==== Sys2Proof/Word.lean ====
section
/-! DEFINITION. The value types of the CHIP-8 core: bytes, instruction words, addresses, register numbers. -/

namespace Sys2Proof

/-- An 8-bit value: a general register, a timer, a memory byte (10_state.md R20, R24, R27). -/
abbrev Byte := BitVec 8

/-- A 16-bit instruction word `op` (30_encoding.md R70). -/
abbrev Word := BitVec 16

/-- A 12-bit address: `pc`, `I`, a stack entry, a memory address. Arithmetic on it is modulo 4096
(10_state.md R22, R23, R26; 20_memory.md R50, R56). -/
abbrev Addr := BitVec 12

/-- The number of a general register, V0 to VF (10_state.md R20). -/
abbrev Reg := Fin 16

end Sys2Proof
end

