-- ==== Sys2Proof/Config.lean ====
section
/-! DEFINITION. What the hardware fixes (00_scope.md R5) and the free values: the inputs of a step that nobody has fixed. -/

namespace Sys2Proof

/-- MEM_SIZE: bytes of memory (00_scope.md R5, 20_memory.md R50). -/
def Config.memSize : Nat := 4096

/-- PROGRAM_BASE, also the reset value of PC (00_scope.md R5, 10_state.md R33). -/
def Config.programBase : Addr := 0x200#12

/-- MAX_PROGRAM: the longest program `load` accepts (00_scope.md R5, 70_reset_and_hazards.md R181). -/
def Config.maxProgram : Nat := 3584

/-- STACK_DEPTH: entries of the call stack (00_scope.md R5, 10_state.md R26). -/
def Config.stackDepth : Nat := 16

/-- DISPLAY_W: columns of the display (00_scope.md R5, 10_state.md R28). -/
def Config.displayWidth : Nat := 64

/-- DISPLAY_H: rows of the display (00_scope.md R5, 10_state.md R28). -/
def Config.displayHeight : Nat := 32

/-- FREE VALUE (log entry 1): the key vector the host supplies to step number `n` when the state does not
already hold it. The spec lets it be any value on every step (10_state.md R29, 93_implementation_defined.md U7). -/
opaque Config.freeKeys : Nat → BitVec 16

/-- FREE VALUE (log entry 2): the random byte of step number `n` when the state does not already hold it.
It is under no law (10_state.md R30, 42_alu.md R123, 92_eei_decisions.md D8). -/
opaque Config.freeRnd : Nat → Byte

end Sys2Proof
end

