-- ==== Sys2Proof/Syntax.lean ====
section
/-! DEFINITION. The 34 instructions of the opcode map (30_encoding.md R75), one constructor a row, in the table's order. -/

namespace Sys2Proof

/-- The instructions. An operand has the type of its encoding field (30_encoding.md R71, R73): `x`, `y` a register
number, `nn` a byte, `nnn` a 12-bit address, `n` a 4-bit row count. -/
inductive Instr where
  /-- `CLS`, 44_display.md R140 -/
  | cls
  /-- `RET`, 41_flow.md R101 -/
  | ret
  /-- `JP nnn`, 41_flow.md R102 -/
  | jp (nnn : Addr)
  /-- `CALL nnn`, 41_flow.md R103 -/
  | call (nnn : Addr)
  /-- `SE Vx,byte`, 41_flow.md R104 -/
  | seByte (x : Reg) (nn : Byte)
  /-- `SNE Vx,byte`, 41_flow.md R105 -/
  | sneByte (x : Reg) (nn : Byte)
  /-- `SE Vx,Vy`, 41_flow.md R106 -/
  | seReg (x y : Reg)
  /-- `SNE Vx,Vy`, 41_flow.md R107 -/
  | sneReg (x y : Reg)
  /-- `LD Vx,byte`, 42_alu.md R112 -/
  | ldByte (x : Reg) (nn : Byte)
  /-- `ADD Vx,byte`, 42_alu.md R113 -/
  | addByte (x : Reg) (nn : Byte)
  /-- `LD Vx,Vy`, 42_alu.md R114 -/
  | ldReg (x y : Reg)
  /-- `OR Vx,Vy`, 42_alu.md R115 -/
  | orReg (x y : Reg)
  /-- `AND Vx,Vy`, 42_alu.md R116 -/
  | andReg (x y : Reg)
  /-- `XOR Vx,Vy`, 42_alu.md R117 -/
  | xorReg (x y : Reg)
  /-- `ADD Vx,Vy`, 42_alu.md R118 -/
  | addReg (x y : Reg)
  /-- `SUB Vx,Vy`, 42_alu.md R119 -/
  | subReg (x y : Reg)
  /-- `SHR Vx`, 42_alu.md R120; `y` is decoded and ignored -/
  | shr (x y : Reg)
  /-- `SUBN Vx,Vy`, 42_alu.md R121 -/
  | subnReg (x y : Reg)
  /-- `SHL Vx`, 42_alu.md R122; `y` is decoded and ignored -/
  | shl (x y : Reg)
  /-- `LD I,nnn`, 43_index_memory.md R130 -/
  | ldI (nnn : Addr)
  /-- `JP V0,nnn`, 41_flow.md R108 -/
  | jpV0 (nnn : Addr)
  /-- `RND Vx,byte`, 42_alu.md R123 -/
  | rnd (x : Reg) (nn : Byte)
  /-- `DRW Vx,Vy,n`, 44_display.md R142 -/
  | drw (x y : Reg) (n : BitVec 4)
  /-- `SKP Vx`, 45_keypad_timers.md R150 -/
  | skp (x : Reg)
  /-- `SKNP Vx`, 45_keypad_timers.md R151 -/
  | sknp (x : Reg)
  /-- `LD Vx,DT`, 45_keypad_timers.md R152 -/
  | ldVxDt (x : Reg)
  /-- `LD DT,Vx`, 45_keypad_timers.md R154 -/
  | ldDtVx (x : Reg)
  /-- `LD ST,Vx`, 45_keypad_timers.md R155 -/
  | ldStVx (x : Reg)
  /-- `LD Vx,K`, 45_keypad_timers.md R153 -/
  | ldVxK (x : Reg)
  /-- `ADD I,Vx`, 43_index_memory.md R131 -/
  | addIVx (x : Reg)
  /-- `LD F,Vx`, 43_index_memory.md R132 -/
  | ldFVx (x : Reg)
  /-- `LD B,Vx`, 43_index_memory.md R133 -/
  | ldBVx (x : Reg)
  /-- `LD [I],Vx`, 43_index_memory.md R134 -/
  | ldMemVx (x : Reg)
  /-- `LD Vx,[I]`, 43_index_memory.md R135 -/
  | ldVxMem (x : Reg)
  deriving DecidableEq, Repr

end Sys2Proof
end

