-- ==== Sys2Proof/WellFormed.lean ====
section
/-! DEFINITION. The checks on what goes into the machine. The operands of Instr carry their ranges in their types, so every
term of Instr is well formed; what can be ill formed is a word (not the canonical spelling of an instruction, not an
instruction at all) and a program (too long). -/

namespace Sys2Proof

/-- Is `op` one of the canonical words of the opcode map (30_encoding.md R75, column "canonical")? A word that differs
from one only in unexamined bits still decodes (R77); D11 of 92_eei_decisions.md names this check as the one that
keeps a program clear of them. Written from the column, nibble by nibble, without the decoder. -/
def canonicalWord (op : Word) : Bool :=
  let low := (op.extractLsb' 0 4).toNat
  let lowByte := (op.extractLsb' 0 8).toNat
  match (op.extractLsb' 12 4).toNat with
  | 0x0 => op == 0x00E0#16 || op == 0x00EE#16
  | 0x5 => low == 0
  | 0x8 => low ≤ 7 || low == 0xE
  | 0x9 => low == 0
  | 0xE => lowByte == 0x9E || lowByte == 0xA1
  | 0xF => [0x07, 0x0A, 0x15, 0x18, 0x1E, 0x29, 0x33, 0x55, 0x65].contains lowByte
  | _ => true

/-- Does a program image fit the program region (70_reset_and_hazards.md R181)? -/
def programFits (prog : List Byte) : Bool :=
  decide (prog.length ≤ Config.maxProgram)

end Sys2Proof
end

