-- ==== Sys2Proof/Decode.lean ====
section
/-! DEFINITION. The decode tree (30_encoding.md R74), the encoder (R75, canonical words), and the opcode map (R75). -/

namespace Sys2Proof

/-- Why a word is no instruction: the tree ends without a handler (30_encoding.md R74, R76). -/
inductive DecodeError where
  | unimplementedOpcode
  deriving DecidableEq, Repr

/-! ## Fields (30_encoding.md R71) -/

/-- The major group, `op[15:12]`. -/
def fieldGroup (op : Word) : BitVec 4 := op.extractLsb' 12 4

/-- The register index `x`, `op[11:8]`. -/
def fieldX (op : Word) : Reg := (op.extractLsb' 8 4).toFin

/-- The register index `y`, `op[7:4]`. -/
def fieldY (op : Word) : Reg := (op.extractLsb' 4 4).toFin

/-- The immediate or selector `n`, `op[3:0]`. -/
def fieldN (op : Word) : BitVec 4 := op.extractLsb' 0 4

/-- The immediate or selector `nn`, `op[7:0]`. -/
def fieldNN (op : Word) : Byte := op.extractLsb' 0 8

/-- The address `nnn`, `op[11:0]`. -/
def fieldNNN (op : Word) : Addr := op.extractLsb' 0 12

/-! ## The decode tree (30_encoding.md R74) -/

/-- Group 0x0, selected by the low nibble. -/
def decodeGroup0 (op : Word) : Except DecodeError Instr :=
  match (fieldN op).toNat with
  | 0x0 => .ok .cls
  | 0xE => .ok .ret
  | _ => .error .unimplementedOpcode

/-- Group 0x8, selected by the low nibble. -/
def decodeGroup8 (op : Word) : Except DecodeError Instr :=
  match (fieldN op).toNat with
  | 0x0 => .ok (.ldReg (fieldX op) (fieldY op))
  | 0x1 => .ok (.orReg (fieldX op) (fieldY op))
  | 0x2 => .ok (.andReg (fieldX op) (fieldY op))
  | 0x3 => .ok (.xorReg (fieldX op) (fieldY op))
  | 0x4 => .ok (.addReg (fieldX op) (fieldY op))
  | 0x5 => .ok (.subReg (fieldX op) (fieldY op))
  | 0x6 => .ok (.shr (fieldX op) (fieldY op))
  | 0x7 => .ok (.subnReg (fieldX op) (fieldY op))
  | 0xE => .ok (.shl (fieldX op) (fieldY op))
  | _ => .error .unimplementedOpcode

/-- Group 0xE, selected by the low nibble. -/
def decodeGroupE (op : Word) : Except DecodeError Instr :=
  match (fieldN op).toNat with
  | 0xE => .ok (.skp (fieldX op))
  | 0x1 => .ok (.sknp (fieldX op))
  | _ => .error .unimplementedOpcode

/-- Group 0xF, selected by the low byte. -/
def decodeGroupF (op : Word) : Except DecodeError Instr :=
  match (fieldNN op).toNat with
  | 0x07 => .ok (.ldVxDt (fieldX op))
  | 0x0A => .ok (.ldVxK (fieldX op))
  | 0x15 => .ok (.ldDtVx (fieldX op))
  | 0x18 => .ok (.ldStVx (fieldX op))
  | 0x1E => .ok (.addIVx (fieldX op))
  | 0x29 => .ok (.ldFVx (fieldX op))
  | 0x33 => .ok (.ldBVx (fieldX op))
  | 0x55 => .ok (.ldMemVx (fieldX op))
  | 0x65 => .ok (.ldVxMem (fieldX op))
  | _ => .error .unimplementedOpcode

/-- The decoder: total on the 65536 words, it examines the bits R74 names and no other. UNVERIFIED:
the selector values are the spec's general knowledge (93_implementation_defined.md G2), log entry 9. -/
def decodeWord (op : Word) : Except DecodeError Instr :=
  match (fieldGroup op).toNat with
  | 0x0 => decodeGroup0 op
  | 0x1 => .ok (.jp (fieldNNN op))
  | 0x2 => .ok (.call (fieldNNN op))
  | 0x3 => .ok (.seByte (fieldX op) (fieldNN op))
  | 0x4 => .ok (.sneByte (fieldX op) (fieldNN op))
  | 0x5 => .ok (.seReg (fieldX op) (fieldY op))
  | 0x6 => .ok (.ldByte (fieldX op) (fieldNN op))
  | 0x7 => .ok (.addByte (fieldX op) (fieldNN op))
  | 0x8 => decodeGroup8 op
  | 0x9 => .ok (.sneReg (fieldX op) (fieldY op))
  | 0xA => .ok (.ldI (fieldNNN op))
  | 0xB => .ok (.jpV0 (fieldNNN op))
  | 0xC => .ok (.rnd (fieldX op) (fieldNN op))
  | 0xD => .ok (.drw (fieldX op) (fieldY op) (fieldN op))
  | 0xE => decodeGroupE op
  | 0xF => decodeGroupF op
  | _ => .error .unimplementedOpcode

/-- The word formed by the byte at `pc` and the byte at `pc + 1`: big-endian (20_memory.md R53, 30_encoding.md R70). -/
def wordOfBytes (first second : Byte) : Word := first.setWidth 16 <<< 8 ||| second.setWidth 16

/-- The bytes of a word as memory holds them: the most significant byte at the lower address (20_memory.md R53). -/
def bytesOfWord (op : Word) : List Byte := [op.extractLsb' 8 8, op.extractLsb' 0 8]

/-- The decoder on bytes as memory holds them. -/
def decodeBytes (first second : Byte) : Except DecodeError Instr := decodeWord (wordOfBytes first second)

/-- The bits of an opcode-table row as a word: bits at and above `nbits` are 0, and so are bits above the one word an
instruction has. -/
def tableWord (nbits w : Nat) : Word := BitVec.ofNat 16 (w % 2 ^ nbits)

/-- What the decoder reads from an instruction whose bits are `w`, numbered as spec/opcode_table.json numbers them. -/
def decodeTableWord (nbits w : Nat) : Option Instr :=
  match bytesOfWord (tableWord nbits w) with
  | [first, second] => (decodeBytes first second).toOption
  | _ => none

/-! ## The encoder: the canonical word of an instruction (30_encoding.md R72, R75) -/

/-- A register number as the four bits of its field. -/
def regBits (r : Reg) : BitVec 4 := BitVec.ofNat 4 r.val

/-- Format NNN. -/
def wordNNN (g : BitVec 4) (nnn : Addr) : Word := g.setWidth 16 <<< 12 ||| nnn.setWidth 16

/-- Format XNN, and group 0xF of format XS with its selector for `nn`. -/
def wordXNN (g : BitVec 4) (x : Reg) (nn : Byte) : Word :=
  g.setWidth 16 <<< 12 ||| (regBits x).setWidth 16 <<< 8 ||| nn.setWidth 16

/-- Formats XY, XYS and XYN, the last nibble being 0, the selector or the row count. -/
def wordXYN (g : BitVec 4) (x y : Reg) (n : BitVec 4) : Word :=
  g.setWidth 16 <<< 12 ||| (regBits x).setWidth 16 <<< 8 ||| (regBits y).setWidth 16 <<< 4 ||| n.setWidth 16

/-- The canonical word of an instruction, the one a toolchain emits (30_encoding.md R75, column "canonical"). -/
def encode : Instr → Word
  | .cls => 0x00E0#16
  | .ret => 0x00EE#16
  | .jp nnn => wordNNN 0x1#4 nnn
  | .call nnn => wordNNN 0x2#4 nnn
  | .seByte x nn => wordXNN 0x3#4 x nn
  | .sneByte x nn => wordXNN 0x4#4 x nn
  | .seReg x y => wordXYN 0x5#4 x y 0x0#4
  | .sneReg x y => wordXYN 0x9#4 x y 0x0#4
  | .ldByte x nn => wordXNN 0x6#4 x nn
  | .addByte x nn => wordXNN 0x7#4 x nn
  | .ldReg x y => wordXYN 0x8#4 x y 0x0#4
  | .orReg x y => wordXYN 0x8#4 x y 0x1#4
  | .andReg x y => wordXYN 0x8#4 x y 0x2#4
  | .xorReg x y => wordXYN 0x8#4 x y 0x3#4
  | .addReg x y => wordXYN 0x8#4 x y 0x4#4
  | .subReg x y => wordXYN 0x8#4 x y 0x5#4
  | .shr x y => wordXYN 0x8#4 x y 0x6#4
  | .subnReg x y => wordXYN 0x8#4 x y 0x7#4
  | .shl x y => wordXYN 0x8#4 x y 0xE#4
  | .ldI nnn => wordNNN 0xA#4 nnn
  | .jpV0 nnn => wordNNN 0xB#4 nnn
  | .rnd x nn => wordXNN 0xC#4 x nn
  | .drw x y n => wordXYN 0xD#4 x y n
  | .skp x => wordXNN 0xE#4 x 0x9E#8
  | .sknp x => wordXNN 0xE#4 x 0xA1#8
  | .ldVxDt x => wordXNN 0xF#4 x 0x07#8
  | .ldDtVx x => wordXNN 0xF#4 x 0x15#8
  | .ldStVx x => wordXNN 0xF#4 x 0x18#8
  | .ldVxK x => wordXNN 0xF#4 x 0x0A#8
  | .addIVx x => wordXNN 0xF#4 x 0x1E#8
  | .ldFVx x => wordXNN 0xF#4 x 0x29#8
  | .ldBVx x => wordXNN 0xF#4 x 0x33#8
  | .ldMemVx x => wordXNN 0xF#4 x 0x55#8
  | .ldVxMem x => wordXNN 0xF#4 x 0x65#8

/-! ## The opcode map (30_encoding.md R75) -/

/-- One row of the opcode map: the row's words are those with `op AND mask = code`. -/
structure OpcodeRow where
  /-- the mnemonic, as the spec's text writes it -/
  mnemonic : String
  /-- the bits the decode tree examines -/
  mask : Word
  /-- their values, the column "match" -/
  code : Word
  deriving DecidableEq, Repr

/-- The row of the opcode map an instruction belongs to. -/
def opcodeRow : Instr → OpcodeRow
  | .cls => ⟨"CLS", 0xF00F#16, 0x0000#16⟩
  | .ret => ⟨"RET", 0xF00F#16, 0x000E#16⟩
  | .jp _ => ⟨"JP nnn", 0xF000#16, 0x1000#16⟩
  | .call _ => ⟨"CALL nnn", 0xF000#16, 0x2000#16⟩
  | .seByte _ _ => ⟨"SE Vx,byte", 0xF000#16, 0x3000#16⟩
  | .sneByte _ _ => ⟨"SNE Vx,byte", 0xF000#16, 0x4000#16⟩
  | .seReg _ _ => ⟨"SE Vx,Vy", 0xF000#16, 0x5000#16⟩
  | .sneReg _ _ => ⟨"SNE Vx,Vy", 0xF000#16, 0x9000#16⟩
  | .ldByte _ _ => ⟨"LD Vx,byte", 0xF000#16, 0x6000#16⟩
  | .addByte _ _ => ⟨"ADD Vx,byte", 0xF000#16, 0x7000#16⟩
  | .ldReg _ _ => ⟨"LD Vx,Vy", 0xF00F#16, 0x8000#16⟩
  | .orReg _ _ => ⟨"OR Vx,Vy", 0xF00F#16, 0x8001#16⟩
  | .andReg _ _ => ⟨"AND Vx,Vy", 0xF00F#16, 0x8002#16⟩
  | .xorReg _ _ => ⟨"XOR Vx,Vy", 0xF00F#16, 0x8003#16⟩
  | .addReg _ _ => ⟨"ADD Vx,Vy", 0xF00F#16, 0x8004#16⟩
  | .subReg _ _ => ⟨"SUB Vx,Vy", 0xF00F#16, 0x8005#16⟩
  | .shr _ _ => ⟨"SHR Vx", 0xF00F#16, 0x8006#16⟩
  | .subnReg _ _ => ⟨"SUBN Vx,Vy", 0xF00F#16, 0x8007#16⟩
  | .shl _ _ => ⟨"SHL Vx", 0xF00F#16, 0x800E#16⟩
  | .ldI _ => ⟨"LD I,nnn", 0xF000#16, 0xA000#16⟩
  | .jpV0 _ => ⟨"JP V0,nnn", 0xF000#16, 0xB000#16⟩
  | .rnd _ _ => ⟨"RND Vx,byte", 0xF000#16, 0xC000#16⟩
  | .drw _ _ _ => ⟨"DRW Vx,Vy,n", 0xF000#16, 0xD000#16⟩
  | .skp _ => ⟨"SKP Vx", 0xF00F#16, 0xE00E#16⟩
  | .sknp _ => ⟨"SKNP Vx", 0xF00F#16, 0xE001#16⟩
  | .ldVxDt _ => ⟨"LD Vx,DT", 0xF0FF#16, 0xF007#16⟩
  | .ldDtVx _ => ⟨"LD DT,Vx", 0xF0FF#16, 0xF015#16⟩
  | .ldStVx _ => ⟨"LD ST,Vx", 0xF0FF#16, 0xF018#16⟩
  | .ldVxK _ => ⟨"LD Vx,K", 0xF0FF#16, 0xF00A#16⟩
  | .addIVx _ => ⟨"ADD I,Vx", 0xF0FF#16, 0xF01E#16⟩
  | .ldFVx _ => ⟨"LD F,Vx", 0xF0FF#16, 0xF029#16⟩
  | .ldBVx _ => ⟨"LD B,Vx", 0xF0FF#16, 0xF033#16⟩
  | .ldMemVx _ => ⟨"LD [I],Vx", 0xF0FF#16, 0xF055#16⟩
  | .ldVxMem _ => ⟨"LD Vx,[I]", 0xF0FF#16, 0xF065#16⟩

/-- The 34 rows, in the order of R75. -/
def opcodeMap : List OpcodeRow :=
  ([.cls, .ret, .jp 0, .call 0, .seByte 0 0, .sneByte 0 0, .seReg 0 0, .sneReg 0 0, .ldByte 0 0, .addByte 0 0,
    .ldReg 0 0, .orReg 0 0, .andReg 0 0, .xorReg 0 0, .addReg 0 0, .subReg 0 0, .shr 0 0, .subnReg 0 0, .shl 0 0,
    .ldI 0, .jpV0 0, .rnd 0 0, .drw 0 0 0, .skp 0, .sknp 0, .ldVxDt 0, .ldDtVx 0, .ldStVx 0, .ldVxK 0, .addIVx 0,
    .ldFVx 0, .ldBVx 0, .ldMemVx 0, .ldVxMem 0] : List Instr).map opcodeRow

end Sys2Proof
end

