-- ==== Sys2Proof/Machine/State.lean ====
section
/-! DEFINITION. The machine's state (10_state.md), its error kinds and step results, and the state after reset. -/

namespace Sys2Proof.Machine

/-- The four error kinds (60_exceptions.md R160). A step delivers the first three as its RESULT, in a next state: the
spec gives the state each leaves and lets the host go on from it (40_step_cycle.md R97, 60_exceptions.md R167, R168),
so no step stops the model with one. `load` delivers the fourth as `Host.Outcome.fault`, because a refused load creates
no state (70_reset_and_hazards.md R181). -/
inductive Fault where
  /-- Raised by part 3 of the step, for a word without a handler (R161). Delivered in a next state: unsafe as far as
  the spec's decision D9 on the state after a raise is (log entry 3). -/
  | unimplementedOpcode
  /-- Raised by `CALL nnn` on a full stack (R162). Delivered in a next state: unsafe as far as D9 is (log entry 3). -/
  | stackOverflow
  /-- Raised by `RET` on an empty stack (R163). Delivered in a next state: unsafe as far as D9 is (log entry 3). -/
  | stackUnderflow
  /-- Raised by `load` for a program over 3584 bytes (R164). No state results; safe. -/
  | programTooLarge
  deriving DecidableEq, Repr

/-- Reasons for having no meaning for an instruction. -/
inductive Refusal where
  /-- Raised by an arm of `exec` whose instruction has no meaning yet; every arm has one, so nothing raises it. Safe. -/
  | notModelled (mnemonic : String)
  deriving DecidableEq, Repr

/-- The result of a step or a load (40_step_cycle.md R98). -/
inductive StepResult where
  /-- parts 1 to 5 completed and the instruction completed -/
  | ok
  /-- parts 1 to 5 completed, `LD Vx,K` found no key pressed -/
  | waitingForKey
  /-- the step raised -/
  | fault (kind : Fault)
  deriving DecidableEq, Repr

/-- The inputs of one step (40_step_cycle.md R90): `keys[k]` is bit `k`, `rnd` the random byte. -/
structure StepInput where
  keys : BitVec 16
  rnd : Byte
  deriving DecidableEq, Repr

/-- Main memory: the (address, byte) pairs that differ from the reset contents, addresses strictly rising. -/
abbrev Memory := List Host.Cell

/-- The register file (10_state.md R20). -/
abbrev RegFile := Vector Byte 16

/-- The display buffer (10_state.md R28): 32 rows of 64 one-bit cells, column `c` of a row at bit `c`, so that cell
`(row, c)` is bit `row*64 + c` of the linear vector of R28. DESIGN CHOICE, log entry 7. -/
abbrev Display := Vector (BitVec 64) 32

/-- The state. The first eight fields are all the state the spec gives the core (10_state.md R20 to R28, R31). The last
three are ports of the step, not state of the core: what the step told the host, and what the host tells coming steps. -/
structure State where
  /-- V0 to VF (R20, R21) -/
  v : RegFile
  /-- the index register I, 12 significant bits (R22) -/
  i : Addr
  /-- the program counter (R23) -/
  pc : Addr
  /-- the delay timer DT (R24) -/
  dt : Byte
  /-- the sound timer ST (R25) -/
  st : Byte
  /-- the call stack, the entry pushed last at the head (R26). DESIGN CHOICE, log entry 6 -/
  stack : List Addr
  /-- main memory (R27) -/
  mem : Memory
  /-- the display buffer (R28) -/
  disp : Display
  /-- OUTPUT: the result of the last step, for the host; no step reads it (R31, R98). DESIGN CHOICE, log entry 4 -/
  result : StepResult
  /-- INPUT: the inputs of the coming steps that are already fixed, the next step's at the head; when it is empty the
  next step's inputs are free values (R29, R30, R90). DESIGN CHOICE, log entry 1 -/
  inputs : List StepInput
  /-- how many steps have been made: the index of the free values. DESIGN CHOICE, log entry 1 -/
  steps : Nat
  deriving DecidableEq, Repr

/-- The state after reset with no program bytes (10_state.md R33). `mem` lists nothing, so all of memory reads as the
reset contents: the font, then zero. The last three fields are not the spec's: DESIGN CHOICE, log entries 1 and 4. -/
def State.reset : State where
  v := Vector.replicate 16 0
  i := 0
  pc := Config.programBase
  dt := 0
  st := 0
  stack := []
  mem := []
  disp := Vector.replicate 32 0
  result := .ok
  inputs := []
  steps := 0

end Sys2Proof.Machine
end

