-- ==== Sys2Proof/Machine/Ops.lean ====
section
/-! DEFINITION. The named operations over memory, registers, stack and display, the parts of the step cycle other than
decode and execute, and the raise of an error kind. -/

namespace Sys2Proof.Machine

/-! ## Memory (20_memory.md) -/

/-- The font table: 16 sprites of 5 bytes (20_memory.md R52). UNVERIFIED: digits 2 to F are the spec's own
general knowledge (93_implementation_defined.md G1), log entry 8. -/
def fontTable : List Byte :=
  [0xF0, 0x90, 0x90, 0x90, 0xF0, 0x20, 0x60, 0x20, 0x20, 0x70] ++
  [0xF0, 0x10, 0xF0, 0x80, 0xF0, 0xF0, 0x10, 0xF0, 0x10, 0xF0] ++
  [0x90, 0x90, 0xF0, 0x10, 0x10, 0xF0, 0x80, 0xF0, 0x10, 0xF0] ++
  [0xF0, 0x80, 0xF0, 0x90, 0xF0, 0xF0, 0x10, 0x20, 0x40, 0x40] ++
  [0xF0, 0x90, 0xF0, 0x90, 0xF0, 0xF0, 0x90, 0xF0, 0x10, 0xF0] ++
  [0xF0, 0x90, 0xF0, 0x90, 0x90, 0xE0, 0x90, 0xE0, 0x90, 0xE0] ++
  [0xF0, 0x80, 0x80, 0x80, 0xF0, 0xE0, 0x90, 0x90, 0x90, 0xE0] ++
  [0xF0, 0x80, 0xF0, 0x80, 0xF0, 0xF0, 0x80, 0xF0, 0x80, 0x80]

/-- What an unlisted address reads as: the reset contents, the font at 0x000 to 0x04F and zero above (10_state.md R33,
20_memory.md R51, R52). -/
def resetByte (a : Nat) : Byte := fontTable[a]?.getD 0

/-- The byte listed at `a`, else the reset contents. -/
def Memory.get (a : Nat) : Memory → Byte
  | [] => resetByte a
  | (k, b) :: m => if a = k then b else Memory.get a m

/-- Puts `(a, b)` before the first entry of a larger address. -/
def Memory.insert (a : Nat) (b : Byte) : Memory → Memory
  | [] => [(a, b)]
  | (k, c) :: m => if a < k then (a, b) :: (k, c) :: m else (k, c) :: Memory.insert a b m

/-- Takes out every entry at `a`. -/
def Memory.erase (a : Nat) (m : Memory) : Memory := m.filter (fun e => e.1 != a)

/-- `MemRead(addr, 1)` (20_memory.md R58): a 12-bit address is already reduced modulo 4096. -/
def Memory.read (m : Memory) (a : Addr) : Byte := Memory.get a.toNat m

/-- `MemWrite(addr, 1, b)` (20_memory.md R58), in the canonical form: writing the reset contents lists nothing. -/
def Memory.write (m : Memory) (a : Addr) (b : Byte) : Memory :=
  if b = resetByte a.toNat then Memory.erase a.toNat m else Memory.insert a.toNat b (Memory.erase a.toNat m)

/-- Writes bytes at `a`, `a + 1`, .. in ascending order, addresses wrapping (20_memory.md R55, R56). -/
def Memory.writeBytes (m : Memory) (a : Addr) : List Byte → Memory
  | [] => m
  | b :: bs => Memory.writeBytes (m.write a b) (a + 1) bs

/-- Are the addresses from `lo` on strictly rising and in the address space, and is no entry the reset contents? -/
def Memory.wfFrom (lo : Nat) : Memory → Bool
  | [] => true
  | (a, b) :: m => decide (lo ≤ a) && decide (a < Config.memSize) && decide (b ≠ resetByte a) && Memory.wfFrom (a + 1) m

/-- The canonical form of memory. -/
def Memory.wf (m : Memory) : Bool := Memory.wfFrom 0 m

/-! ## Registers (10_state.md) -/

/-- `V[r]`. -/
def State.reg (s : State) (r : Reg) : Byte := s.v[r]

/-- `V[r] <- b`. -/
def State.setReg (s : State) (r : Reg) (b : Byte) : State := { s with v := s.v.set r b }

/-- All sixteen registers at once. -/
def State.setRegs (s : State) (v : RegFile) : State := { s with v := v }

/-- `I <- a`. -/
def State.setI (s : State) (a : Addr) : State := { s with i := a }

/-- `pc <- a`. -/
def State.setPc (s : State) (a : Addr) : State := { s with pc := a }

/-- `DT <- b`. -/
def State.setDt (s : State) (b : Byte) : State := { s with dt := b }

/-- `ST <- b`. -/
def State.setSt (s : State) (b : Byte) : State := { s with st := b }

/-- Memory replaced. -/
def State.setMem (s : State) (m : Memory) : State := { s with mem := m }

/-- Display replaced. -/
def State.setDisp (s : State) (d : Display) : State := { s with disp := d }

/-- Call stack replaced. -/
def State.setStack (s : State) (l : List Addr) : State := { s with stack := l }

/-- The result the step returns. -/
def State.setResult (s : State) (r : StepResult) : State := { s with result := r }

/-- Loads `count` registers from memory at `a`, ascending (43_index_memory.md R135). -/
def loadRegs (m : Memory) (a : Addr) : Nat → RegFile → RegFile
  | 0, v => v
  | count + 1, v => (loadRegs m a count v).setIfInBounds count (m.read (a + BitVec.ofNat 12 count))

/-! ## Display (44_display.md) -/

/-- `disp[row][col]`; a place outside the grid is dark. -/
def Display.cell (d : Display) (row col : Nat) : Bool := (d[row]?.getD 0).getLsbD col

/-- Exclusive-or of one cell with 1; nothing outside the grid. -/
def Display.toggle (d : Display) (row col : Nat) : Display :=
  d.setIfInBounds row ((d[row]?.getD 0) ^^^ BitVec.twoPow 64 col)

/-- All cells 0. -/
def Display.clear : Display := Vector.replicate 32 0

/-! ## The inputs of the step (40_step_cycle.md R90) -/

/-- The inputs of the step being executed: those already fixed, else free values (log entries 1 and 2). -/
def State.input (s : State) : StepInput :=
  match s.inputs with
  | inp :: _ => inp
  | [] => ⟨Config.freeKeys s.steps, Config.freeRnd s.steps⟩

/-- `keys[15:0]` of this step. -/
def State.keys (s : State) : BitVec 16 := s.input.keys

/-- `rnd[7:0]` of this step. -/
def State.rnd (s : State) : Byte := s.input.rnd

/-- Leaves this step's inputs behind: every step uses up one pair, whatever it does. DEDUCED from R90, log entry 15. -/
def State.consumeInput (s : State) : State := { s with inputs := s.inputs.tail, steps := s.steps + 1 }

/-! ## Errors (60_exceptions.md) -/

/-- `raise kind` (60_exceptions.md R167): the step ends, and the only thing written is the result the host is given.
DESIGN CHOICE, log entry 3: it is a next
state. There is no trap entry: no vector, no saved register, no mode. There is no return from it either (R168): the host
continues with an ordinary step. -/
def State.raise (s : State) (kind : Fault) : State := s.setResult (.fault kind)

/-- Did the step raise? -/
def StepResult.isFault : StepResult → Bool
  | .fault _ => true
  | _ => false

/-- The numeric code of a step result (40_step_cycle.md R98, 60_exceptions.md R160). -/
def StepResult.code : StepResult → Nat
  | .ok => 0
  | .waitingForKey => 1
  | .fault .unimplementedOpcode => 2
  | .fault .stackOverflow => 3
  | .fault .stackUnderflow => 4
  | .fault .programTooLarge => 5

/-! ## The step cycle (40_step_cycle.md R91) -/

/-- Part 1, fetch: the two bytes at `pc` and `pc + 1`, big-endian (R92). -/
def fetch (s : State) : Word := wordOfBytes (s.mem.read s.pc) (s.mem.read (s.pc + 1))

/-- Part 2, advance (R93). The result is Ok from here on unless the instruction waits or the step raises. -/
def advance (s : State) : State := (s.setPc (s.pc + 2)).setResult .ok

/-- One timer decremented by one, saturating at 0 (R96). -/
def decayed (b : Byte) : Byte := if b = 0 then 0 else b - 1

/-- Part 5, timer decay (R96). -/
def decay (s : State) : State := (s.setDt (decayed s.dt)).setSt (decayed s.st)

/-- The end of a step: timer decay unless the step raised (R97), and this step's inputs are gone. -/
def finish (s : State) : State := (if s.result.isFault then s else decay s).consumeInput

/-- Places an instruction word in memory where the next step fetches. -/
def State.placeWord (s : State) (op : Word) : State := s.setMem (s.mem.writeBytes s.pc (bytesOfWord op))

end Sys2Proof.Machine
end

