-- ==== Sys2Proof/Machine/Flags.lean ====
section
/-! DEFINITION. The only flag, VF (10_state.md R21), and the flag computations of the ALU (42_alu.md R110, R111). -/

namespace Sys2Proof.Machine

/-- VF's number. -/
def regVF : Reg := 15

/-- A flag as the value VF is given: 1 or 0 (10_state.md R21). -/
def flagByte (f : Bool) : Byte := if f then 1 else 0

/-- Carry out of an addition: `a + b > 255` (42_alu.md R111). -/
def carryOut (a b : Byte) : Bool := decide (a.toNat + b.toNat > 255)

/-- No borrow in `a - b`: `a >= b` (42_alu.md R111). -/
def noBorrow (a b : Byte) : Bool := decide (a.toNat ≥ b.toNat)

/-- The bit a right shift drops, `a[0]` (42_alu.md R111). -/
def lowBit (a : Byte) : Bool := a.getLsbD 0

/-- The bit a left shift drops, `a[7]` (42_alu.md R111). -/
def highBit (a : Byte) : Bool := a.getLsbD 7

/-- The flag write. -/
def State.setFlag (s : State) (f : Bool) : State := s.setReg regVF (flagByte f)

/-- Result first, flag last: with `x = 0xF` the flag is what VF holds afterwards (42_alu.md R110). -/
def writeResultFlag (x : Reg) (result : Byte) (flag : Bool) (s : State) : State := (s.setReg x result).setFlag flag

end Sys2Proof.Machine
end

