-- ==== Sys2Proof/Machine/Alu.lean ====
section
/-! DEFINITION. Register load, arithmetic, logic, shift and random (42_alu.md). Operands are read from the state before
the instruction, the result is written, then the flag (R110). -/

namespace Sys2Proof.Machine

/-- `LD Vx,byte` (R112). -/
def execLdByte (x : Reg) (nn : Byte) (s : State) : Host.Outcome State Fault Refusal := .next (s.setReg x nn)

/-- `ADD Vx,byte` (R113): no flag. -/
def execAddByte (x : Reg) (nn : Byte) (s : State) : Host.Outcome State Fault Refusal :=
  .next (s.setReg x (s.reg x + nn))

/-- `LD Vx,Vy` (R114). -/
def execLdReg (x y : Reg) (s : State) : Host.Outcome State Fault Refusal := .next (s.setReg x (s.reg y))

/-- `OR Vx,Vy` (R115): VF unchanged. -/
def execOrReg (x y : Reg) (s : State) : Host.Outcome State Fault Refusal := .next (s.setReg x (s.reg x ||| s.reg y))

/-- `AND Vx,Vy` (R116): VF unchanged. -/
def execAndReg (x y : Reg) (s : State) : Host.Outcome State Fault Refusal := .next (s.setReg x (s.reg x &&& s.reg y))

/-- `XOR Vx,Vy` (R117): VF unchanged. -/
def execXorReg (x y : Reg) (s : State) : Host.Outcome State Fault Refusal := .next (s.setReg x (s.reg x ^^^ s.reg y))

/-- `ADD Vx,Vy` (R118). -/
def execAddReg (x y : Reg) (s : State) : Host.Outcome State Fault Refusal :=
  .next (writeResultFlag x (s.reg x + s.reg y) (carryOut (s.reg x) (s.reg y)) s)

/-- `SUB Vx,Vy` (R119). -/
def execSubReg (x y : Reg) (s : State) : Host.Outcome State Fault Refusal :=
  .next (writeResultFlag x (s.reg x - s.reg y) (noBorrow (s.reg x) (s.reg y)) s)

/-- `SHR Vx` (R120): in place, `y` ignored. -/
def execShr (x _y : Reg) (s : State) : Host.Outcome State Fault Refusal :=
  .next (writeResultFlag x (s.reg x >>> 1) (lowBit (s.reg x)) s)

/-- `SUBN Vx,Vy` (R121). -/
def execSubnReg (x y : Reg) (s : State) : Host.Outcome State Fault Refusal :=
  .next (writeResultFlag x (s.reg y - s.reg x) (noBorrow (s.reg y) (s.reg x)) s)

/-- `SHL Vx` (R122): in place, `y` ignored. -/
def execShl (x _y : Reg) (s : State) : Host.Outcome State Fault Refusal :=
  .next (writeResultFlag x (s.reg x <<< 1) (highBit (s.reg x)) s)

/-- `RND Vx,byte` (R123): the step's random byte, masked. -/
def execRnd (x : Reg) (nn : Byte) (s : State) : Host.Outcome State Fault Refusal := .next (s.setReg x (s.rnd &&& nn))

end Sys2Proof.Machine
end

