-- ==== Sys2Proof/Machine/Operands.lean ====
section
/-! DEFINITION. Operand forms: the one data addressing mode, the skip, the key predicate, decimal digits, font address. -/

namespace Sys2Proof.Machine

/-- The data address `(I + k) mod 4096` (43_index_memory.md R136). -/
def dataAddr (s : State) (k : Nat) : Addr := s.i + BitVec.ofNat 12 k

/-- The skip: `pc <- (pc + 2) mod 4096` if the condition holds (41_flow.md R100 (b)). -/
def skipIf (c : Bool) (s : State) : State := s.setPc (if c then s.pc + 2 else s.pc)

/-- `pressed(k)`: a code of 16 or more names no key and is not pressed (45_keypad_timers.md R156). -/
def pressed (keys : BitVec 16) (k : Byte) : Bool := decide (k.toNat ≤ 15) && keys.getLsbD k.toNat

/-- `first_key`: the smallest pressed key; none when no key is pressed (45_keypad_timers.md R156). -/
def firstKey (keys : BitVec 16) : Option Nat := (List.range 16).find? (fun k => keys.getLsbD k)

/-- Hundreds, tens, ones (43_index_memory.md R133). -/
def decimalDigits (b : Byte) : List Byte :=
  [BitVec.ofNat 8 (b.toNat / 100), BitVec.ofNat 8 (b.toNat / 10 % 10), BitVec.ofNat 8 (b.toNat % 10)]

/-- `zext_12`: an 8-bit value as an address operand. -/
def addrOfByte (b : Byte) : Addr := BitVec.ofNat 12 b.toNat

/-- The font address `5 * V[x]`, with no masking (43_index_memory.md R132). -/
def fontAddr (b : Byte) : Addr := BitVec.ofNat 12 (5 * b.toNat)

/-- The values of `V[0]` to `V[x]` (43_index_memory.md R134). -/
def regsUpTo (s : State) (x : Reg) : List Byte := s.v.toList.take (x.val + 1)

end Sys2Proof.Machine
end

