-- ==== Sys2Proof/Machine/Blit.lean ====
section
/-! DEFINITION. The display instructions, the XOR-blit and the collision detector (44_display.md). -/

namespace Sys2Proof.Machine

/-- Is sprite pixel `(c, r)` of the row byte `b` applied: its bit `b[7 - c]` is 1 and it lies in the grid
(44_display.md R141, R143)? The start `(cx, cy)` is not reduced. -/
def pixelApplied (cx cy r c : Nat) (b : Byte) : Bool :=
  b.getLsbD (7 - c) && decide (cx + c ≤ 63) && decide (cy + r ≤ 31)

/-- One pixel of the blit: the collision flag is set by a lit cell, then the cell is toggled (44_display.md R142, R144). -/
def blitPixel (cx cy r : Nat) (b : Byte) (acc : Display × Bool) (c : Nat) : Display × Bool :=
  if pixelApplied cx cy r c b then
    (acc.1.toggle (cy + r) (cx + c), acc.2 || acc.1.cell (cy + r) (cx + c))
  else acc

/-- One sprite row: its eight columns, left to right. -/
def blitRow (cx cy r : Nat) (b : Byte) (acc : Display × Bool) : Display × Bool :=
  (List.range 8).foldl (blitPixel cx cy r b) acc

/-- The blit of `n` sprite rows read by `sprite`: the display after it and the collision flag. -/
def blit (cx cy n : Nat) (sprite : Nat → Byte) (d : Display) : Display × Bool :=
  (List.range n).foldl (fun acc r => blitRow cx cy r (sprite r) acc) (d, false)

/-- `CLS` (R140). -/
def execCls (s : State) : Host.Outcome State Fault Refusal := .next (s.setDisp Display.clear)

/-- What `DRW Vx,Vy,n` draws: sprite rows at `(I + r) mod 4096`, the corner at `(V[x], V[y])`, both coordinates
read before VF is written (R142). -/
def drawn (x y : Reg) (n : BitVec 4) (s : State) : Display × Bool :=
  blit (s.reg x).toNat (s.reg y).toNat n.toNat (fun r => s.mem.read (dataAddr s r)) s.disp

/-- `DRW Vx,Vy,n` (R142). -/
def execDrw (x y : Reg) (n : BitVec 4) (s : State) : Host.Outcome State Fault Refusal :=
  .next ((s.setDisp (drawn x y n s).1).setFlag (drawn x y n s).2)

end Sys2Proof.Machine
end

