-- ==== Sys2Proof/Machine/Flow.lean ====
section
/-! DEFINITION. Control transfer (41_flow.md). Each meaning is part 4 of the step: `pc` already holds the address of the
following instruction (40_step_cycle.md R93). -/

namespace Sys2Proof.Machine

/-- `RET` (R101). -/
def execRet (s : State) : Host.Outcome State Fault Refusal :=
  match s.stack with
  | [] => .next (s.raise .stackUnderflow)
  | a :: rest => .next ((s.setStack rest).setPc a)

/-- `JP nnn` (R102). -/
def execJp (nnn : Addr) (s : State) : Host.Outcome State Fault Refusal := .next (s.setPc nnn)

/-- `CALL nnn` (R103). The spec's test is `depth = 16`; no state a run reaches has a greater depth (R26, log entry 6). -/
def execCall (nnn : Addr) (s : State) : Host.Outcome State Fault Refusal :=
  if Config.stackDepth ≤ s.stack.length then .next (s.raise .stackOverflow)
  else .next ((s.setStack (s.pc :: s.stack)).setPc nnn)

/-- `SE Vx,byte` (R104). -/
def execSeByte (x : Reg) (nn : Byte) (s : State) : Host.Outcome State Fault Refusal :=
  .next (skipIf (decide (s.reg x = nn)) s)

/-- `SNE Vx,byte` (R105). -/
def execSneByte (x : Reg) (nn : Byte) (s : State) : Host.Outcome State Fault Refusal :=
  .next (skipIf (decide (s.reg x ≠ nn)) s)

/-- `SE Vx,Vy` (R106). -/
def execSeReg (x y : Reg) (s : State) : Host.Outcome State Fault Refusal :=
  .next (skipIf (decide (s.reg x = s.reg y)) s)

/-- `SNE Vx,Vy` (R107). -/
def execSneReg (x y : Reg) (s : State) : Host.Outcome State Fault Refusal :=
  .next (skipIf (decide (s.reg x ≠ s.reg y)) s)

/-- `JP V0,nnn` (R108). -/
def execJpV0 (nnn : Addr) (s : State) : Host.Outcome State Fault Refusal :=
  .next (s.setPc (nnn + addrOfByte (s.reg 0)))

end Sys2Proof.Machine
end

