-- ==== Sys2Proof/Machine/IndexMemory.lean ====
section
/-! DEFINITION. The index register and the memory instructions (43_index_memory.md). -/

namespace Sys2Proof.Machine

/-- `LD I,nnn` (R130). -/
def execLdI (nnn : Addr) (s : State) : Host.Outcome State Fault Refusal := .next (s.setI nnn)

/-- `ADD I,Vx` (R131): modulo 4096, VF not written. -/
def execAddIVx (x : Reg) (s : State) : Host.Outcome State Fault Refusal := .next (s.setI (s.i + addrOfByte (s.reg x)))

/-- `LD F,Vx` (R132). -/
def execLdFVx (x : Reg) (s : State) : Host.Outcome State Fault Refusal := .next (s.setI (fontAddr (s.reg x)))

/-- `LD B,Vx` (R133). -/
def execLdBVx (x : Reg) (s : State) : Host.Outcome State Fault Refusal :=
  .next (s.setMem (s.mem.writeBytes (dataAddr s 0) (decimalDigits (s.reg x))))

/-- `LD [I],Vx` (R134): I unchanged. -/
def execLdMemVx (x : Reg) (s : State) : Host.Outcome State Fault Refusal :=
  .next (s.setMem (s.mem.writeBytes (dataAddr s 0) (regsUpTo s x)))

/-- `LD Vx,[I]` (R135): I unchanged. -/
def execLdVxMem (x : Reg) (s : State) : Host.Outcome State Fault Refusal :=
  .next (s.setRegs (loadRegs s.mem (dataAddr s 0) (x.val + 1) s.v))

end Sys2Proof.Machine
end

