-- ==== Sys2Proof/Machine/Keypad.lean ====
section
/-! DEFINITION. The keypad and timer instructions (45_keypad_timers.md). -/

namespace Sys2Proof.Machine

/-- `SKP Vx` (R150). -/
def execSkp (x : Reg) (s : State) : Host.Outcome State Fault Refusal := .next (skipIf (pressed s.keys (s.reg x)) s)

/-- `SKNP Vx` (R151). -/
def execSknp (x : Reg) (s : State) : Host.Outcome State Fault Refusal := .next (skipIf (!pressed s.keys (s.reg x)) s)

/-- `LD Vx,DT` (R152): DT before this step's decay. -/
def execLdVxDt (x : Reg) (s : State) : Host.Outcome State Fault Refusal := .next (s.setReg x s.dt)

/-- `LD DT,Vx` (R154). -/
def execLdDtVx (x : Reg) (s : State) : Host.Outcome State Fault Refusal := .next (s.setDt (s.reg x))

/-- `LD ST,Vx` (R155). -/
def execLdStVx (x : Reg) (s : State) : Host.Outcome State Fault Refusal := .next (s.setSt (s.reg x))

/-- What `LD Vx,K` does with the first pressed key, if there is one: the key to `V[x]`, else the rewind and the result
WaitingForKey (R153, 40_step_cycle.md R98). -/
def takeKey (x : Reg) (key : Option Nat) (s : State) : State :=
  match key with
  | some k => s.setReg x (BitVec.ofNat 8 k)
  | none => (s.setPc (s.pc - 2)).setResult .waitingForKey

/-- `LD Vx,K` (R153). -/
def execLdVxK (x : Reg) (s : State) : Host.Outcome State Fault Refusal := .next (takeKey x (firstKey s.keys) s)

end Sys2Proof.Machine
end

