-- ==== Sys2Proof/Machine/Step.lean ====
section
/-! DEFINITION. One step (40_step_cycle.md R91), and the word the next step fetches. -/

namespace Sys2Proof.Machine

/-- `step(keys, rnd)`: fetch, advance, decode, execute, timer decay (40_step_cycle.md R91). The inputs come from the
state (`State.input`). A word without a handler raises in part 3 (R94, R97). -/
def step (s : State) : Host.Outcome State Fault Refusal :=
  match decodeWord (fetch s) with
  | .error .unimplementedOpcode => .next (finish ((advance s).raise .unimplementedOpcode))
  | .ok i =>
    match exec i (advance s) with
    | .next t => .next (finish t)
    | .fault r => .fault r
    | .refused r => .refused r

/-- `s` with the instruction of bits `w` (numbered as spec/opcode_table.json numbers them) stored where the next step
fetches. -/
def State.withFetchWord (s : State) (nbits w : Nat) : State := s.placeWord (tableWord nbits w)

end Sys2Proof.Machine
end

