-- ==== Sys2Proof/Machine/Load.lean ====
section
/-! DEFINITION. The `load` operation, the only reset (70_reset_and_hazards.md R180, R181). It is the host's, not a step's. -/

namespace Sys2Proof.Machine

/-- `load(prog, L)` on a core in state `s`. A program that fits gives the state of 10_state.md R33 with the image at
0x200; a longer one is `ProgramTooLarge` and no state is created or changed (R181). The inputs of coming steps are no
state of the core and are not affected (R183). -/
def load (prog : List Byte) (s : State) : Host.Outcome State Fault Refusal :=
  if programFits prog then
    .next { State.reset with
      mem := State.reset.mem.writeBytes Config.programBase prog, inputs := s.inputs, steps := s.steps }
  else .fault .programTooLarge

end Sys2Proof.Machine
end

