-- ==== Sys2Proof/Safety.lean ====
section
/-! DEFINITION. What claims say of states: the invariant, a safe step, and what an instruction leaves unchanged. -/

namespace Sys2Proof.Machine

/-- The invariant of 10_state.md R32 that the types do not already carry: depth in [0, 16]; and the model's own: memory
is in its canonical form. -/
def State.Inv (s : State) : Prop := s.stack.length ≤ Config.stackDepth ∧ Memory.wf s.mem = true

/-- The step that led here did not raise (60_exceptions.md R168). -/
def State.NoFault (s : State) : Prop := s.result.isFault = false

/-- Every byte of memory reads the same. -/
def SameMemory (s t : State) : Prop := ∀ a : Addr, t.mem.read a = s.mem.read a

/-- Every display cell is the same. -/
def SameDisplay (s t : State) : Prop := ∀ row col : Nat, t.disp.cell row col = s.disp.cell row col

/-- Every general register outside `dests` is the same. -/
def SameRegsBut (dests : List Reg) (s t : State) : Prop := ∀ r : Reg, r ∉ dests → t.reg r = s.reg r

/-- Both timers are the same. -/
def SameTimers (s t : State) : Prop := t.dt = s.dt ∧ t.st = s.st

/-- The step's inputs, a port of the model (log entry 1), are the same: no instruction consumes or changes them. -/
def SameInputs (s t : State) : Prop := t.inputs = s.inputs ∧ t.steps = s.steps

/-- Nothing but general registers in `dests` changed. -/
def OnlyRegs (dests : List Reg) (s t : State) : Prop :=
  SameRegsBut dests s t ∧ t.i = s.i ∧ t.pc = s.pc ∧ SameTimers s t ∧ t.stack = s.stack ∧ SameMemory s t ∧
    SameDisplay s t ∧ t.result = s.result ∧ SameInputs s t

/-- Nothing but the program counter changed. -/
def OnlyPc (s t : State) : Prop :=
  SameRegsBut [] s t ∧ t.i = s.i ∧ SameTimers s t ∧ t.stack = s.stack ∧ SameMemory s t ∧ SameDisplay s t ∧
    t.result = s.result ∧ SameInputs s t

/-- Nothing but the index register changed. -/
def OnlyI (s t : State) : Prop :=
  SameRegsBut [] s t ∧ t.pc = s.pc ∧ SameTimers s t ∧ t.stack = s.stack ∧ SameMemory s t ∧ SameDisplay s t ∧
    t.result = s.result ∧ SameInputs s t

/-- Nothing but memory changed. -/
def OnlyMemory (s t : State) : Prop :=
  SameRegsBut [] s t ∧ t.i = s.i ∧ t.pc = s.pc ∧ SameTimers s t ∧ t.stack = s.stack ∧ SameDisplay s t ∧
    t.result = s.result ∧ SameInputs s t

/-- Nothing changed but the result given to the host: what a raise leaves of part 4 (60_exceptions.md R167). -/
def OnlyResult (s t : State) : Prop :=
  SameRegsBut [] s t ∧ t.i = s.i ∧ t.pc = s.pc ∧ SameTimers s t ∧ t.stack = s.stack ∧ SameMemory s t ∧
    SameDisplay s t ∧ SameInputs s t

/-- The five sprite rows of each digit, in the order of the digits: the table of 20_memory.md R52. The rows of digits 2 to F
are the spec's general knowledge (93_implementation_defined.md G1), log entry 8. -/
def digitRows : List (List Byte) :=
  [[0xF0, 0x90, 0x90, 0x90, 0xF0], [0x20, 0x60, 0x20, 0x20, 0x70], [0xF0, 0x10, 0xF0, 0x80, 0xF0],
    [0xF0, 0x10, 0xF0, 0x10, 0xF0], [0x90, 0x90, 0xF0, 0x10, 0x10], [0xF0, 0x80, 0xF0, 0x10, 0xF0],
    [0xF0, 0x80, 0xF0, 0x90, 0xF0], [0xF0, 0x10, 0x20, 0x40, 0x40], [0xF0, 0x90, 0xF0, 0x90, 0xF0],
    [0xF0, 0x90, 0xF0, 0x10, 0xF0], [0xF0, 0x90, 0xF0, 0x90, 0x90], [0xE0, 0x90, 0xE0, 0x90, 0xE0],
    [0xF0, 0x80, 0x80, 0x80, 0xF0], [0xE0, 0x90, 0x90, 0x90, 0xE0], [0xF0, 0x80, 0xF0, 0x80, 0xF0],
    [0xF0, 0x80, 0xF0, 0x80, 0x80]]

/-- Every word with `op AND mask = code` decodes, to the instruction `f` reads off it: the encoding line of an
instruction's rule. -/
def DecodesAs (mask code : Word) (f : Word → Instr) : Prop :=
  ∀ op : Word, op &&& mask = code → decodeWord op = .ok (f op)

/-- The canonical word of `i`, as a number. -/
def EncodesTo (i : Instr) (n : Nat) : Prop := (encode i).toNat = n

/-- Decode examines no other bit: two words that agree under `mask` decode alike. -/
def DecodeDependsOnly (mask : Word) (op op' : Word) : Prop := op &&& mask = op' &&& mask → decodeWord op = decodeWord op'

/-- The register an instruction's `x` field names, if it has one. -/
def xField : Instr → Option Reg
  | .cls => none
  | .ret => none
  | .jp _ => none
  | .call _ => none
  | .seByte x _ => some x
  | .sneByte x _ => some x
  | .seReg x _ => some x
  | .sneReg x _ => some x
  | .ldByte x _ => some x
  | .addByte x _ => some x
  | .ldReg x _ => some x
  | .orReg x _ => some x
  | .andReg x _ => some x
  | .xorReg x _ => some x
  | .addReg x _ => some x
  | .subReg x _ => some x
  | .shr x _ => some x
  | .subnReg x _ => some x
  | .shl x _ => some x
  | .ldI _ => none
  | .jpV0 _ => none
  | .rnd x _ => some x
  | .drw x _ _ => some x
  | .skp x => some x
  | .sknp x => some x
  | .ldVxDt x => some x
  | .ldDtVx x => some x
  | .ldStVx x => some x
  | .ldVxK x => some x
  | .addIVx x => some x
  | .ldFVx x => some x
  | .ldBVx x => some x
  | .ldMemVx x => some x
  | .ldVxMem x => some x

/-- The six instructions that write VF as a flag (10_state.md R21). -/
def WritesFlag (i : Instr) : Prop :=
  (∃ x y, i = .addReg x y) ∨ (∃ x y, i = .subReg x y) ∨ (∃ x y, i = .subnReg x y) ∨ (∃ x y, i = .shr x y) ∨
    (∃ x y, i = .shl x y) ∨ ∃ x y n, i = .drw x y n

/-- The instructions that use the inputs of the step: the random byte or the key vector (60_exceptions.md R171). -/
def UsesInput (i : Instr) : Prop :=
  (∃ x nn, i = .rnd x nn) ∨ (∃ x, i = .skp x) ∨ (∃ x, i = .sknp x) ∨ ∃ x, i = .ldVxK x

/-- The state of the core, all that 10_state.md gives it, is the same: everything but the three ports of the step. -/
def SameCore (s t : State) : Prop :=
  t.v = s.v ∧ t.i = s.i ∧ t.pc = s.pc ∧ t.dt = s.dt ∧ t.st = s.st ∧ t.stack = s.stack ∧ t.mem = s.mem ∧ t.disp = s.disp

end Sys2Proof.Machine
end

