-- ==== Sys2Proof/Certificates/Slice0/Obligations.lean ====
section
/-! DEFINITION. The statements for the provers. Each docstring names the rules of spec/ it formalises. Where a clause rests on
a sentence the spec marks as its own (a decision D<n> of 92_eei_decisions.md, general knowledge G<n>), the docstring names it
and the statement has basis derived. -/

open Sys2Proof Sys2Proof.Machine

/-! ## Encoding -/

/-- Words written out from the spec's own examples decode to the instructions they stand for (41_flow.md to
45_keypad_timers.md, 95_test_vectors.md). -/
def Obligations.SpecWordsDecode : Prop :=
  decodeWord 0x00E0#16 = .ok .cls ∧ decodeWord 0x2210#16 = .ok (.call 0x210#12) ∧
  decodeWord 0x4A07#16 = .ok (.sneByte 10 7#8) ∧ decodeWord 0x60F6#16 = .ok (.ldByte 0 0xF6#8) ∧
  decodeWord 0x8124#16 = .ok (.addReg 1 2) ∧ decodeWord 0x8125#16 = .ok (.subReg 1 2) ∧
  decodeWord 0xA300#16 = .ok (.ldI 0x300#12) ∧ decodeWord 0xD015#16 = .ok (.drw 0 1 5#4) ∧
  decodeWord 0xE29E#16 = .ok (.skp 2) ∧ decodeWord 0xF10A#16 = .ok (.ldVxK 1) ∧
  decodeWord 0xF255#16 = .ok (.ldMemVx 2) ∧ decodeWord 0x0001#16 = .error .unimplementedOpcode

/-- Decoding the canonical word of an instruction gives it back, for every operand value (30_encoding.md R74, R75). -/
def Obligations.DecodeEncodeRoundTrip : Prop := ∀ i : Instr, decodeWord (encode i) = .ok i

/-- Encoding what a canonical word decodes to gives the word back: no canonical word has two readings and no field is
dropped (30_encoding.md R75). -/
def Obligations.EncodeDecodeCanonicalWord : Prop :=
  ∀ (op : Word) (i : Instr), canonicalWord op = true → decodeWord op = .ok i → encode i = op

/-- The decode tree and the opcode map say the same: a word decodes to an instruction of a row exactly when it matches
the row's mask and code (30_encoding.md R74, R75). -/
def Obligations.DecodeFollowsOpcodeMap : Prop :=
  (∀ (op : Word) (i : Instr), decodeWord op = .ok i →
    opcodeRow i ∈ opcodeMap ∧ op &&& (opcodeRow i).mask = (opcodeRow i).code) ∧
  ∀ (op : Word) (row : OpcodeRow), row ∈ opcodeMap → op &&& row.mask = row.code →
    ∃ i, decodeWord op = .ok i ∧ opcodeRow i = row

/-- The opcode map has 34 rows and every word matches at most one (30_encoding.md R75). -/
def Obligations.OpcodeMapRowsDisjoint : Prop :=
  opcodeMap.length = 34 ∧
  ∀ r ∈ opcodeMap, ∀ r' ∈ opcodeMap, ∀ op : Word, op &&& r.mask = r.code → op &&& r'.mask = r'.code → r = r'

/-- The words that fail with UnimplementedOpcode are those of the four groups and selectors R76 of 30_encoding.md
lists. -/
def Obligations.IllegalWordsAreThoseListed : Prop :=
  ∀ op : Word, decodeWord op = .error .unimplementedOpcode ↔
    (fieldGroup op = 0x0#4 ∧ fieldN op ∉ [0x0#4, 0xE#4]) ∨
    (fieldGroup op = 0x8#4 ∧ fieldN op ∈ [0x8#4, 0x9#4, 0xA#4, 0xB#4, 0xC#4, 0xD#4, 0xF#4]) ∨
    (fieldGroup op = 0xE#4 ∧ fieldN op ∉ [0x1#4, 0xE#4]) ∨
    (fieldGroup op = 0xF#4 ∧
      fieldNN op ∉ [0x07#8, 0x0A#8, 0x15#8, 0x18#8, 0x1E#8, 0x29#8, 0x33#8, 0x55#8, 0x65#8])

/-- Unexamined bits are don't-care: 30_encoding.md R77, the spec's decision D11 (log entry 9). Group 0 looks at `op[3:0]`
only, groups 5 and 9 do not look at `op[3:0]`, group E does not look at `op[7:4]`, and SHR and SHL do not use `y`. -/
def Obligations.UnexaminedBitsIgnored : Prop :=
  (∀ op op' : Word, fieldGroup op = 0x0#4 → DecodeDependsOnly 0xF00F#16 op op') ∧
  (∀ op op' : Word, fieldGroup op = 0x5#4 ∨ fieldGroup op = 0x9#4 → DecodeDependsOnly 0xFFF0#16 op op') ∧
  (∀ op op' : Word, fieldGroup op = 0xE#4 → DecodeDependsOnly 0xFF0F#16 op op') ∧
  decodeWord 0x0000#16 = .ok .cls ∧
  ∀ (x y y' : Reg) (s : State), exec (.shr x y) s = exec (.shr x y') s ∧ exec (.shl x y) s = exec (.shl x y') s

/-! ## Memory and fetch -/

/-- The memory primitives of 20_memory.md R58: a byte write at `a mod 4096` is what a read of that address gives and no
other byte changes; the fetch reads two bytes, the first of weight 256, at `pc` and `(pc + 1) mod 4096`. -/
def Obligations.MemoryPrimitives : Prop :=
  (∀ (m : Memory) (a c : Nat) (b : Byte),
    (m.write (BitVec.ofNat 12 a) b).read (BitVec.ofNat 12 c) =
      if c % 4096 = a % 4096 then b else m.read (BitVec.ofNat 12 c)) ∧
  ∀ s : State, (fetch s).toNat =
    (s.mem.read (BitVec.ofNat 12 s.pc.toNat)).toNat * 256 + (s.mem.read (BitVec.ofNat 12 (s.pc.toNat + 1))).toNat

/-- A byte stored into the instruction at `pc` is exactly that byte of the next fetch, and a word placed there is the
word fetched (20_memory.md R53, R61; the spec's decision D6). -/
def Obligations.StoreSeenByNextFetch : Prop :=
  (∀ (s : State) (b : Byte), fetch (s.setMem (s.mem.write s.pc b)) = wordOfBytes b (s.mem.read (s.pc + 1))) ∧
  (∀ (s : State) (b : Byte), fetch (s.setMem (s.mem.write (s.pc + 1) b)) = wordOfBytes (s.mem.read s.pc) b) ∧
  ∀ (s : State) (op : Word), fetch (s.placeWord op) = op

/-- `LD [I],Vx`, then any change of registers that leaves I and the stored bytes alone, then `LD Vx,[I]`, gives V0 to Vx
their values back bit for bit, for every `x` and every `I` (20_memory.md R63). -/
def Obligations.StoreLoadRoundTrip : Prop :=
  ∀ (x : Reg) (s s1 s2 : State), exec (.ldMemVx x) s = .next s1 → s2.i = s1.i →
    (∀ k : Nat, k ≤ x.val → s2.mem.read (dataAddr s1 k) = s1.mem.read (dataAddr s1 k)) →
    ∃ t, exec (.ldVxMem x) s2 = .next t ∧ ∀ r : Reg, t.reg r = if r ≤ x then s.reg r else s2.reg r

/-! ## The step -/

/-- One step is fetch, advance, decode, execute, timer decay (40_step_cycle.md R91): a decoded word runs its
instruction on the state with `pc` advanced by 2, modulo 4096 by the spec's decision D1; the step ends with that state,
its timers decayed unless the instruction raised. A word without a handler ends the step in part 3 (R97).
What is not R91's: that nothing is decayed or undone after a raise is the spec's decision D9; that a raise is a next state
whose result is the fault is the model's choice (log entry 3, DESIGN CHOICE); that the step's inputs are a port of State
counted by `steps` is the model's choice (log entry 1, DESIGN CHOICE), and that every step uses one pair of them up is read
from R90 by inference (log entry 15, DEDUCED). -/
def Obligations.StepRunsDecoded : Prop :=
  (∀ (s : State) (i : Instr) (u : State), decodeWord (fetch s) = .ok i → exec i (advance s) = .next u →
    ∃ t, step s = .next t ∧ t.v = u.v ∧ t.i = u.i ∧ t.pc = u.pc ∧ t.stack = u.stack ∧ t.mem = u.mem ∧ t.disp = u.disp ∧
      t.result = u.result ∧ t.inputs = u.inputs.tail ∧ t.steps = u.steps + 1 ∧
      t.dt.toNat = (if u.result.isFault then u.dt.toNat else u.dt.toNat - 1) ∧
      t.st.toNat = (if u.result.isFault then u.st.toNat else u.st.toNat - 1)) ∧
  (∀ s : State, (advance s).pc.toNat = (s.pc.toNat + 2) % 4096 ∧ (advance s).result = .ok ∧
    advance s = { s with pc := (advance s).pc, result := (advance s).result }) ∧
  ∀ s : State, decodeWord (fetch s) = .error .unimplementedOpcode →
    ∃ t, step s = .next t ∧ t.result = .fault .unimplementedOpcode ∧ t.pc = (advance s).pc ∧
      SameCore s { t with pc := s.pc }

/-- Every step from every state answers a next state. That no access, operand, coordinate or key vector stops the machine
is the closed list of 60_exceptions.md R173. That the three steps which do raise (an illegal word, a CALL on a full stack, a
RET on an empty one) answer a next state as well is the model's choice (log entry 3, DESIGN CHOICE): 40_step_cycle.md R97
and the spec's decision D9 give the state they leave, and 60_exceptions.md R168 lets the host go on from it. -/
def Obligations.StepAlwaysAnswers : Prop := ∀ s : State, ∃ t, step s = .next t

/-- When a step returns which result (40_step_cycle.md R98, 60_exceptions.md R160, R166; decision D10 for the result
type; that a raise is the result of a next state is the model's choice, log entry 3). `ProgramTooLarge` is never returned
by a step. -/
def Obligations.StepResultTable : Prop :=
  ∀ s t : State, s.Inv → step s = .next t →
    (t.result = .fault .unimplementedOpcode ↔ decodeWord (fetch s) = .error .unimplementedOpcode) ∧
    (t.result = .fault .stackOverflow ↔ (∃ nnn, decodeWord (fetch s) = .ok (.call nnn)) ∧ s.stack.length = 16) ∧
    (t.result = .fault .stackUnderflow ↔ decodeWord (fetch s) = .ok .ret ∧ s.stack.length = 0) ∧
    (t.result = .waitingForKey ↔ (∃ x, decodeWord (fetch s) = .ok (.ldVxK x)) ∧ s.keys = 0) ∧
    t.result ≠ .fault .programTooLarge

/-- A step that raises leaves `pc` advanced by 2 and nothing else of the core changed; the timers have not decayed
(40_step_cycle.md R97, 60_exceptions.md R167; the spec's decision D9, log entry 3). -/
def Obligations.RaisingStepLeavesOnlyPcAdvanced : Prop :=
  ∀ (s t : State) (kind : Fault), step s = .next t → t.result = .fault kind →
    t.pc.toNat = (s.pc.toNat + 2) % 4096 ∧ SameCore s { t with pc := s.pc }

/-- Every step that does not raise lowers each nonzero timer by one, after the instruction: `LD DT,Vx` and `LD ST,Vx`
are decayed in their own step, and a blocked `LD Vx,K` decays like any other (40_step_cycle.md R96; decision D19). -/
def Obligations.TimersDecayEveryCompletedStep : Prop :=
  ∀ s t : State, step s = .next t → t.NoFault →
    (∀ x, decodeWord (fetch s) = .ok (.ldDtVx x) → t.dt.toNat = (s.reg x).toNat - 1) ∧
    ((∀ x, decodeWord (fetch s) ≠ .ok (.ldDtVx x)) → t.dt.toNat = s.dt.toNat - 1) ∧
    (∀ x, decodeWord (fetch s) = .ok (.ldStVx x) → t.st.toNat = (s.reg x).toNat - 1) ∧
    ((∀ x, decodeWord (fetch s) ≠ .ok (.ldStVx x)) → t.st.toNat = s.st.toNat - 1)

/-- Every step keeps the invariant of 10_state.md R32: the depth of the call stack stays in [0, 16]; and memory stays in
its canonical form (the model's own clause, log entry 5). -/
def Obligations.StepKeepsInvariant : Prop := ∀ s t : State, s.Inv → step s = .next t → t.Inv

/-- The state after reset, and the state after every load that succeeds, meet the invariant. -/
def Obligations.ResetMeetsInvariant : Prop :=
  State.reset.Inv ∧ ∀ (prog : List Byte) (s t : State), load prog s = .next t → t.Inv

/-- A step depends on the core's state and on the inputs of coming steps and on nothing else: not on the result an earlier
step returned, so nothing records an error or a wait (10_state.md R31, 60_exceptions.md R167). -/
def Obligations.StepDependsOnCoreAndInputs : Prop :=
  ∀ s s' : State, SameCore s s' → SameInputs s s' → step s' = step s

/-- The inputs of a step reach the core only through RND, SKP, SKNP and LD Vx,K: for any other word the core's state and
the result after the step are the same whatever the key vectors and random bytes are (10_state.md R29, R30,
60_exceptions.md R171). -/
def Obligations.InputsReachOnlyTheirInstructions : Prop :=
  ∀ (s s' : State), SameCore s s' → (∀ i, decodeWord (fetch s) = .ok i → ¬ UsesInput i) →
    ∃ t t', step s = .next t ∧ step s' = .next t' ∧ SameCore t t' ∧ t'.result = t.result

/-! ## Who writes what -/

/-- VF changes only by the six flag-writing instructions and by an instruction whose `x` field is 0xF; a flag-writing
instruction leaves VF 0 or 1 whatever its operands (10_state.md R21; decision D7 for `x` = 0xF). -/
def Obligations.VfWriters : Prop :=
  (∀ (i : Instr) (s t : State), exec i s = .next t → t.reg 15 ≠ s.reg 15 → WritesFlag i ∨ xField i = some 15) ∧
  ∀ (i : Instr) (s t : State), WritesFlag i → exec i s = .next t → t.reg 15 = 0 ∨ t.reg 15 = 1

/-- The display is changed by CLS and DRW and by nothing else a step does, and all that any instruction takes from it
is the collision flag of DRW (44_display.md R145). -/
def Obligations.DisplayWriters : Prop :=
  (∀ s t : State, step s = .next t → t.disp ≠ s.disp →
    decodeWord (fetch s) = .ok .cls ∨ ∃ x y n, decodeWord (fetch s) = .ok (.drw x y n)) ∧
  ∀ (i : Instr) (s : State) (d : Display), ∃ t t', exec i s = .next t ∧ exec i (s.setDisp d) = .next t' ∧
    (∀ r : Reg, t'.reg r ≠ t.reg r → r = 15 ∧ ∃ x y n, i = .drw x y n) ∧
    t'.i = t.i ∧ t'.pc = t.pc ∧ t'.dt = t.dt ∧ t'.st = t.st ∧ t'.stack = t.stack ∧ t'.mem = t.mem ∧ t'.result = t.result

/-- Only CALL and RET change the call stack, only LD B and LD [I] change memory, only LD I, ADD I and LD F change I,
only LD DT and LD ST change a timer other than by decay (10_state.md R22, R24 to R27, 20_memory.md R62). -/
def Obligations.WritersOfStackMemoryIndexTimers : Prop :=
  ∀ (i : Instr) (s t : State), exec i s = .next t →
    (t.stack ≠ s.stack → (∃ nnn, i = .call nnn) ∨ i = .ret) ∧
    ((∃ a : Addr, t.mem.read a ≠ s.mem.read a) → (∃ x, i = .ldBVx x) ∨ ∃ x, i = .ldMemVx x) ∧
    (t.i ≠ s.i → (∃ nnn, i = .ldI nnn) ∨ (∃ x, i = .addIVx x) ∨ ∃ x, i = .ldFVx x) ∧
    (t.dt ≠ s.dt → ∃ x, i = .ldDtVx x) ∧ (t.st ≠ s.st → ∃ x, i = .ldStVx x) ∧ SameInputs s t

/-! ## Register load, arithmetic, logic, shift, random -/

/-- `LD Vx,byte` and `LD Vx,Vy`: encoding, result, nothing else changed (42_alu.md R112, R114). -/
def Obligations.LoadRegisterForms : Prop :=
  DecodesAs 0xF000#16 0x6000#16 (fun op => .ldByte (fieldX op) (fieldNN op)) ∧
  DecodesAs 0xF00F#16 0x8000#16 (fun op => .ldReg (fieldX op) (fieldY op)) ∧
  ∀ (x y : Reg) (nn : Byte),
    EncodesTo (.ldByte x nn) (0x6000 + x.val * 256 + nn.toNat) ∧ EncodesTo (.ldReg x y) (0x8000 + x.val * 256 + y.val * 16) ∧
    ∀ s : State, (∃ t, exec (.ldByte x nn) s = .next t ∧ t.reg x = nn ∧ OnlyRegs [x] s t) ∧
      ∃ t, exec (.ldReg x y) s = .next t ∧ t.reg x = s.reg y ∧ OnlyRegs [x] s t

/-- `OR`, `AND`, `XOR`: encoding, result bit by bit, nothing else changed; VF in particular, unless it is `Vx`
(42_alu.md R115, R116, R117). -/
def Obligations.LogicForms : Prop :=
  DecodesAs 0xF00F#16 0x8001#16 (fun op => .orReg (fieldX op) (fieldY op)) ∧
  DecodesAs 0xF00F#16 0x8002#16 (fun op => .andReg (fieldX op) (fieldY op)) ∧
  DecodesAs 0xF00F#16 0x8003#16 (fun op => .xorReg (fieldX op) (fieldY op)) ∧
  ∀ x y : Reg,
    EncodesTo (.orReg x y) (0x8001 + x.val * 256 + y.val * 16) ∧ EncodesTo (.andReg x y) (0x8002 + x.val * 256 + y.val * 16) ∧
    EncodesTo (.xorReg x y) (0x8003 + x.val * 256 + y.val * 16) ∧
    ∀ s : State,
      (∃ t, exec (.orReg x y) s = .next t ∧ OnlyRegs [x] s t ∧
        ∀ k, (t.reg x).getLsbD k = ((s.reg x).getLsbD k || (s.reg y).getLsbD k)) ∧
      (∃ t, exec (.andReg x y) s = .next t ∧ OnlyRegs [x] s t ∧
        ∀ k, (t.reg x).getLsbD k = ((s.reg x).getLsbD k && (s.reg y).getLsbD k)) ∧
      ∃ t, exec (.xorReg x y) s = .next t ∧ OnlyRegs [x] s t ∧
        ∀ k, (t.reg x).getLsbD k = ((s.reg x).getLsbD k ^^ (s.reg y).getLsbD k)

/-- `ADD Vx,byte`: encoding, sum modulo 256, no flag: VF changes only as `Vx` (42_alu.md R113). -/
def Obligations.AddByteWrapsWithoutFlag : Prop :=
  DecodesAs 0xF000#16 0x7000#16 (fun op => .addByte (fieldX op) (fieldNN op)) ∧
  ∀ (x : Reg) (nn : Byte), EncodesTo (.addByte x nn) (0x7000 + x.val * 256 + nn.toNat) ∧
    ∀ s : State, ∃ t, exec (.addByte x nn) s = .next t ∧ (t.reg x).toNat = ((s.reg x).toNat + nn.toNat) % 256 ∧
      OnlyRegs [x] s t

/-- `ADD Vx,Vy`: encoding, sum modulo 256, carry always written; with `x` = 0xF VF ends as the carry, as R118 says
(42_alu.md R118). -/
def Obligations.AddRegisterCarry : Prop :=
  DecodesAs 0xF00F#16 0x8004#16 (fun op => .addReg (fieldX op) (fieldY op)) ∧
  ∀ x y : Reg, EncodesTo (.addReg x y) (0x8004 + x.val * 256 + y.val * 16) ∧
    ∀ s : State, ∃ t, exec (.addReg x y) s = .next t ∧
      (x ≠ 15 → (t.reg x).toNat = ((s.reg x).toNat + (s.reg y).toNat) % 256) ∧
      (t.reg 15).toNat = (if (s.reg x).toNat + (s.reg y).toNat > 255 then 1 else 0) ∧ OnlyRegs [x, 15] s t

/-- `SUB Vx,Vy` and `SUBN Vx,Vy`: encoding, difference modulo 256, the negation of borrow always written; with `x` = 0xF
VF ends as the flag, as R119 and R121 say (42_alu.md R119, R121). -/
def Obligations.SubtractNoBorrow : Prop :=
  DecodesAs 0xF00F#16 0x8005#16 (fun op => .subReg (fieldX op) (fieldY op)) ∧
  DecodesAs 0xF00F#16 0x8007#16 (fun op => .subnReg (fieldX op) (fieldY op)) ∧
  ∀ x y : Reg,
    EncodesTo (.subReg x y) (0x8005 + x.val * 256 + y.val * 16) ∧ EncodesTo (.subnReg x y) (0x8007 + x.val * 256 + y.val * 16) ∧
    ∀ s : State,
      (∃ t, exec (.subReg x y) s = .next t ∧
        (x ≠ 15 → ((t.reg x).toNat : Int) = (((s.reg x).toNat : Int) - (s.reg y).toNat) % 256) ∧
        (t.reg 15).toNat = (if (s.reg x).toNat ≥ (s.reg y).toNat then 1 else 0) ∧ OnlyRegs [x, 15] s t) ∧
      ∃ t, exec (.subnReg x y) s = .next t ∧
        (x ≠ 15 → ((t.reg x).toNat : Int) = (((s.reg y).toNat : Int) - (s.reg x).toNat) % 256) ∧
        (t.reg 15).toNat = (if (s.reg y).toNat ≥ (s.reg x).toNat then 1 else 0) ∧ OnlyRegs [x, 15] s t

/-- `SHR Vx` and `SHL Vx`: encoding, shift by one in place whatever `y` is, the bit shifted out always written; with
`x` = 0xF VF ends as that bit, as R120 and R122 say (42_alu.md R120, R122). -/
def Obligations.ShiftInPlace : Prop :=
  DecodesAs 0xF00F#16 0x8006#16 (fun op => .shr (fieldX op) (fieldY op)) ∧
  DecodesAs 0xF00F#16 0x800E#16 (fun op => .shl (fieldX op) (fieldY op)) ∧
  ∀ x y : Reg,
    EncodesTo (.shr x y) (0x8006 + x.val * 256 + y.val * 16) ∧ EncodesTo (.shl x y) (0x800E + x.val * 256 + y.val * 16) ∧
    ∀ s : State,
      (∃ t, exec (.shr x y) s = .next t ∧ (x ≠ 15 → (t.reg x).toNat = (s.reg x).toNat / 2) ∧
        (t.reg 15).toNat = (s.reg x).toNat % 2 ∧ OnlyRegs [x, 15] s t) ∧
      ∃ t, exec (.shl x y) s = .next t ∧ (x ≠ 15 → (t.reg x).toNat = (s.reg x).toNat * 2 % 256) ∧
        (t.reg 15).toNat = (s.reg x).toNat / 128 ∧ OnlyRegs [x, 15] s t

/-- `RND Vx,byte`: encoding, the step's random byte ANDed with `nn` (42_alu.md R123). The byte is the one the host has
fixed, if it has, else a free value: the statement holds for every value of it (decision D8, log entry 2). -/
def Obligations.RandomByteMasked : Prop :=
  DecodesAs 0xF000#16 0xC000#16 (fun op => .rnd (fieldX op) (fieldNN op)) ∧
  ∀ (x : Reg) (nn : Byte), EncodesTo (.rnd x nn) (0xC000 + x.val * 256 + nn.toNat) ∧
    ∀ s : State, ∃ t, exec (.rnd x nn) s = .next t ∧ t.reg x = s.rnd &&& nn ∧ OnlyRegs [x] s t ∧
      (∀ k, nn.getLsbD k = false → (t.reg x).getLsbD k = false) ∧
      ∀ inp rest, s.inputs = inp :: rest → t.reg x = inp.rnd &&& nn

/-! ## Control transfer -/

/-- `JP nnn`: encoding, target, nothing else changed; a jump to its own address leaves `pc` where it was in a step that
decays the timers as any other (41_flow.md R102). -/
def Obligations.JumpAbsolute : Prop :=
  DecodesAs 0xF000#16 0x1000#16 (fun op => .jp (fieldNNN op)) ∧
  ∀ nnn : Addr, EncodesTo (.jp nnn) (0x1000 + nnn.toNat) ∧
    (∀ s : State, ∃ t, exec (.jp nnn) s = .next t ∧ t.pc = nnn ∧ OnlyPc s t) ∧
    ∀ s : State, decodeWord (fetch s) = .ok (.jp nnn) → s.pc = nnn →
      ∃ t, step s = .next t ∧ t.pc = s.pc ∧ t.dt.toNat = s.dt.toNat - 1 ∧ t.st.toNat = s.st.toNat - 1

/-- `JP V0,nnn`: encoding, target `(nnn + V0) mod 4096`, nothing else changed (41_flow.md R108; the reduction modulo 4096
is the spec's decision D1). -/
def Obligations.JumpIndexed : Prop :=
  DecodesAs 0xF000#16 0xB000#16 (fun op => .jpV0 (fieldNNN op)) ∧
  ∀ nnn : Addr, EncodesTo (.jpV0 nnn) (0xB000 + nnn.toNat) ∧
    ∀ s : State, ∃ t, exec (.jpV0 nnn) s = .next t ∧ t.pc.toNat = (nnn.toNat + (s.reg 0).toNat) % 4096 ∧ OnlyPc s t

/-- `CALL nnn`: encoding; below depth 16 the advanced `pc` is pushed and `nnn` is the new `pc`, nothing else changed
(no byte of memory: the stack is not in memory); at depth 16 the instruction raises StackOverflow and writes nothing
else, and its step leaves `pc` past the CALL, the stack's entries and the timers as they were (41_flow.md R103,
60_exceptions.md R162). That the raise is a next state whose result is the fault is the model's choice (log entry 3, DESIGN
CHOICE). -/
def Obligations.CallPushesOrOverflows : Prop :=
  DecodesAs 0xF000#16 0x2000#16 (fun op => .call (fieldNNN op)) ∧
  ∀ nnn : Addr, EncodesTo (.call nnn) (0x2000 + nnn.toNat) ∧
    (∀ s : State, s.stack.length < 16 → ∃ t, exec (.call nnn) s = .next t ∧ t.stack = s.pc :: s.stack ∧ t.pc = nnn ∧
      SameRegsBut [] s t ∧ t.i = s.i ∧ SameTimers s t ∧ SameMemory s t ∧ SameDisplay s t ∧ t.result = s.result ∧
      SameInputs s t) ∧
    (∀ s : State, s.stack.length = 16 → ∃ t, exec (.call nnn) s = .next t ∧ t.result = .fault .stackOverflow ∧
      OnlyResult s t) ∧
    ∀ s : State, s.stack.length = 16 → decodeWord (fetch s) = .ok (.call nnn) →
      ∃ t, step s = .next t ∧ t.result = .fault .stackOverflow ∧ t.pc = s.pc + 2 ∧ SameCore s { t with pc := s.pc }

/-- `RET`: encoding; the entry pushed last becomes `pc` and leaves the stack, nothing else changed; on an empty stack the
instruction raises StackUnderflow and writes nothing else, and its step leaves `pc` past the RET, the stack empty and
the timers as they were (41_flow.md R101, 60_exceptions.md R163). That the raise is a next state whose result is the fault
is the model's choice (log entry 3, DESIGN CHOICE). -/
def Obligations.ReturnPopsOrUnderflows : Prop :=
  DecodesAs 0xF00F#16 0x000E#16 (fun _ => .ret) ∧ EncodesTo .ret 0x00EE ∧
  (∀ (s : State) (a : Addr) (rest : List Addr), s.stack = a :: rest →
    ∃ t, exec .ret s = .next t ∧ t.pc = a ∧ t.stack = rest ∧ SameRegsBut [] s t ∧ t.i = s.i ∧ SameTimers s t ∧
      SameMemory s t ∧ SameDisplay s t ∧ t.result = s.result ∧ SameInputs s t) ∧
  (∀ s : State, s.stack.length = 0 → ∃ t, exec .ret s = .next t ∧ t.result = .fault .stackUnderflow ∧ OnlyResult s t) ∧
  ∀ s : State, s.stack.length = 0 → decodeWord (fetch s) = .ok .ret →
    ∃ t, step s = .next t ∧ t.result = .fault .stackUnderflow ∧ t.pc = s.pc + 2 ∧ SameCore s { t with pc := s.pc }

/-- `SE Vx,byte` and `SNE Vx,byte`: encoding, the skip of 2 more on equal and on not equal, nothing else changed
(41_flow.md R104, R105). -/
def Obligations.SkipOnImmediate : Prop :=
  DecodesAs 0xF000#16 0x3000#16 (fun op => .seByte (fieldX op) (fieldNN op)) ∧
  DecodesAs 0xF000#16 0x4000#16 (fun op => .sneByte (fieldX op) (fieldNN op)) ∧
  ∀ (x : Reg) (nn : Byte),
    EncodesTo (.seByte x nn) (0x3000 + x.val * 256 + nn.toNat) ∧ EncodesTo (.sneByte x nn) (0x4000 + x.val * 256 + nn.toNat) ∧
    ∀ s : State,
      (∃ t, exec (.seByte x nn) s = .next t ∧ OnlyPc s t ∧
        t.pc.toNat = if s.reg x = nn then (s.pc.toNat + 2) % 4096 else s.pc.toNat) ∧
      ∃ t, exec (.sneByte x nn) s = .next t ∧ OnlyPc s t ∧
        t.pc.toNat = if s.reg x = nn then s.pc.toNat else (s.pc.toNat + 2) % 4096

/-- `SE Vx,Vy` and `SNE Vx,Vy`: encoding with `op[3:0]` ignored, the skip of 2 more on equal and on not equal, nothing
else changed (41_flow.md R106, R107). -/
def Obligations.SkipOnRegisters : Prop :=
  DecodesAs 0xF000#16 0x5000#16 (fun op => .seReg (fieldX op) (fieldY op)) ∧
  DecodesAs 0xF000#16 0x9000#16 (fun op => .sneReg (fieldX op) (fieldY op)) ∧
  ∀ x y : Reg,
    EncodesTo (.seReg x y) (0x5000 + x.val * 256 + y.val * 16) ∧ EncodesTo (.sneReg x y) (0x9000 + x.val * 256 + y.val * 16) ∧
    ∀ s : State,
      (∃ t, exec (.seReg x y) s = .next t ∧ OnlyPc s t ∧
        t.pc.toNat = if s.reg x = s.reg y then (s.pc.toNat + 2) % 4096 else s.pc.toNat) ∧
      ∃ t, exec (.sneReg x y) s = .next t ∧ OnlyPc s t ∧
        t.pc.toNat = if s.reg x = s.reg y then s.pc.toNat else (s.pc.toNat + 2) % 4096

/-! ## Index register and memory -/

/-- `LD I,nnn` and `LD F,Vx`: encoding, the new I (`5 * V[x]` with no masking), nothing else changed
(43_index_memory.md R130, R132). -/
def Obligations.LoadIndex : Prop :=
  DecodesAs 0xF000#16 0xA000#16 (fun op => .ldI (fieldNNN op)) ∧
  DecodesAs 0xF0FF#16 0xF029#16 (fun op => .ldFVx (fieldX op)) ∧
  ∀ (nnn : Addr) (x : Reg), EncodesTo (.ldI nnn) (0xA000 + nnn.toNat) ∧ EncodesTo (.ldFVx x) (0xF029 + x.val * 256) ∧
    ∀ s : State, (∃ t, exec (.ldI nnn) s = .next t ∧ t.i = nnn ∧ OnlyI s t) ∧
      ∃ t, exec (.ldFVx x) s = .next t ∧ t.i.toNat = 5 * (s.reg x).toNat ∧ OnlyI s t

/-- `ADD I,Vx`: encoding, the sum modulo 4096, VF and everything else unchanged (43_index_memory.md R131; the reduction
modulo 4096 is the spec's decision D3). -/
def Obligations.AddToIndex : Prop :=
  DecodesAs 0xF0FF#16 0xF01E#16 (fun op => .addIVx (fieldX op)) ∧
  ∀ x : Reg, EncodesTo (.addIVx x) (0xF01E + x.val * 256) ∧
    ∀ s : State, ∃ t, exec (.addIVx x) s = .next t ∧ t.i.toNat = (s.i.toNat + (s.reg x).toNat) % 4096 ∧ OnlyI s t

/-- `LD B,Vx`: encoding; the hundreds, tens and ones of `V[x]` are stored at I, I + 1 and I + 2 modulo 4096, every other
byte of memory and everything else is unchanged (43_index_memory.md R133). -/
def Obligations.StoreDecimal : Prop :=
  DecodesAs 0xF0FF#16 0xF033#16 (fun op => .ldBVx (fieldX op)) ∧
  ∀ x : Reg, EncodesTo (.ldBVx x) (0xF033 + x.val * 256) ∧
    ∀ s : State, ∃ t, exec (.ldBVx x) s = .next t ∧ OnlyMemory s t ∧
      (t.mem.read (dataAddr s 0)).toNat = (s.reg x).toNat / 100 ∧
      (t.mem.read (dataAddr s 1)).toNat = (s.reg x).toNat / 10 % 10 ∧
      (t.mem.read (dataAddr s 2)).toNat = (s.reg x).toNat % 10 ∧
      (∀ k, (dataAddr s k).toNat = (s.i.toNat + k) % 4096) ∧
      ∀ a : Addr, (∀ k, k < 3 → a ≠ dataAddr s k) → t.mem.read a = s.mem.read a

/-- `LD [I],Vx`: encoding; V0 to Vx are stored at I to I + x modulo 4096, every other byte of memory and everything else,
I too, is unchanged (43_index_memory.md R134; I unchanged is the spec's decision D17, the wrap D4). -/
def Obligations.StoreRegisters : Prop :=
  DecodesAs 0xF0FF#16 0xF055#16 (fun op => .ldMemVx (fieldX op)) ∧
  ∀ x : Reg, EncodesTo (.ldMemVx x) (0xF055 + x.val * 256) ∧
    ∀ s : State, ∃ t, exec (.ldMemVx x) s = .next t ∧ OnlyMemory s t ∧
      (∀ r : Reg, r ≤ x → t.mem.read (dataAddr s r.val) = s.reg r) ∧
      (∀ k, (dataAddr s k).toNat = (s.i.toNat + k) % 4096) ∧
      ∀ a : Addr, (∀ k, k ≤ x.val → a ≠ dataAddr s k) → t.mem.read a = s.mem.read a

/-- `LD Vx,[I]`: encoding; V0 to Vx are loaded from I to I + x modulo 4096, the registers above Vx and everything else,
memory and I too, are unchanged (43_index_memory.md R135; I unchanged is the spec's decision D17, the wrap D4). -/
def Obligations.LoadRegisters : Prop :=
  DecodesAs 0xF0FF#16 0xF065#16 (fun op => .ldVxMem (fieldX op)) ∧
  ∀ x : Reg, EncodesTo (.ldVxMem x) (0xF065 + x.val * 256) ∧
    ∀ s : State, ∃ t, exec (.ldVxMem x) s = .next t ∧
      (∀ r : Reg, r ≤ x → t.reg r = s.mem.read (dataAddr s r.val)) ∧
      OnlyRegs ((List.finRange 16).filter (fun r => decide (r ≤ x))) s t

/-- Wherever the bytes below 0x050 still are the reset contents, whatever the rest of memory holds, `LD F,Vx` with a digit
in `V[x]` completes and I points at the digit's five sprite rows (43_index_memory.md R132, 20_memory.md R52; the rows of
digits 2 to F are the spec's general knowledge G1, log entry 8). -/
def Obligations.FontSpriteOfDigit : Prop :=
  ∀ (x : Reg) (s : State) (rows : List Byte),
    (∀ a : Addr, a.toNat < 0x050 → s.mem.read a = State.reset.mem.read a) →
    digitRows[(s.reg x).toNat]? = some rows →
    ∃ t, exec (.ldFVx x) s = .next t ∧ (List.range 5).map (fun k => t.mem.read (dataAddr t k)) = rows

/-! ## Display -/

/-- `CLS`: encoding with `op[11:4]` ignored, every cell 0, nothing else changed, VF neither (44_display.md R140). -/
def Obligations.ClearScreen : Prop :=
  DecodesAs 0xF00F#16 0x0000#16 (fun _ => .cls) ∧ EncodesTo .cls 0x00E0 ∧
  ∀ s : State, ∃ t, exec .cls s = .next t ∧ (∀ row col, t.disp.cell row col = false) ∧
    SameRegsBut [] s t ∧ t.i = s.i ∧ t.pc = s.pc ∧ SameTimers s t ∧ t.stack = s.stack ∧ SameMemory s t ∧
    t.result = s.result ∧ SameInputs s t

/-- `DRW Vx,Vy,n`: encoding; sprite pixel `(c, r)` is the bit `7 - c` of the byte at `(I + r) mod 4096` and falls on
column `V[x] + c` and row `V[y] + r`; a pixel inside the 64 by 32 grid is exclusive-ored into its cell, one outside is
dropped, no other cell changes; VF is 1 if some applied bit of 1 fell on a lit cell, else 0; nothing else changes
(44_display.md R141 to R144; the start coordinate is not reduced and `n` = 0 draws nothing by the spec's decisions D14
and D15, VF is written last by D7). -/
def Obligations.DrawSprite : Prop :=
  DecodesAs 0xF000#16 0xD000#16 (fun op => .drw (fieldX op) (fieldY op) (fieldN op)) ∧
  ∀ (x y : Reg) (n : BitVec 4), EncodesTo (.drw x y n) (0xD000 + x.val * 256 + y.val * 16 + n.toNat) ∧
    ∀ s : State, ∃ t, exec (.drw x y n) s = .next t ∧
      (∀ r c, r < n.toNat → c < 8 → (s.reg x).toNat + c ≤ 63 → (s.reg y).toNat + r ≤ 31 →
        t.disp.cell ((s.reg y).toNat + r) ((s.reg x).toNat + c) =
          (s.disp.cell ((s.reg y).toNat + r) ((s.reg x).toNat + c) ^^ (s.mem.read (dataAddr s r)).getLsbD (7 - c))) ∧
      (∀ row col, (∀ r c, r < n.toNat → c < 8 → ¬ (row = (s.reg y).toNat + r ∧ col = (s.reg x).toNat + c)) →
        t.disp.cell row col = s.disp.cell row col) ∧
      (t.reg 15 = 1 ∨ t.reg 15 = 0) ∧
      (t.reg 15 = 1 ↔ ∃ r c, r < n.toNat ∧ c < 8 ∧ (s.reg x).toNat + c ≤ 63 ∧ (s.reg y).toNat + r ≤ 31 ∧
        (s.mem.read (dataAddr s r)).getLsbD (7 - c) = true ∧
        s.disp.cell ((s.reg y).toNat + r) ((s.reg x).toNat + c) = true) ∧
      SameRegsBut [15] s t ∧ t.i = s.i ∧ t.pc = s.pc ∧ SameTimers s t ∧ t.stack = s.stack ∧ SameMemory s t ∧
      t.result = s.result ∧ SameInputs s t

/-- Drawing the same sprite twice at the same place restores every cell (44_display.md R142 (e)); `x` and `y` are not VF,
because the first draw would change the coordinate. What R142 (e) adds of VF after the second draw is not stated: it
holds only where the first draw lit a cell (log entry 16). -/
def Obligations.DrawTwiceRestores : Prop :=
  ∀ (x y : Reg) (n : BitVec 4) (s s1 s2 : State), x ≠ 15 → y ≠ 15 → exec (.drw x y n) s = .next s1 →
    exec (.drw x y n) s1 = .next s2 → ∀ row col, s2.disp.cell row col = s.disp.cell row col

/-! ## Keypad and timers -/

/-- `SKP Vx` and `SKNP Vx`: encoding with `op[7:4]` ignored; the key `V[x]` is pressed if `V[x] <= 15` and its bit of this
step's key vector is 1; SKP skips if it is, SKNP if it is not; nothing else changes (45_keypad_timers.md R150, R151,
R156; a code above 15 is not pressed by the spec's decision D13). Holds for every key vector. -/
def Obligations.SkipOnKey : Prop :=
  DecodesAs 0xF00F#16 0xE00E#16 (fun op => .skp (fieldX op)) ∧
  DecodesAs 0xF00F#16 0xE001#16 (fun op => .sknp (fieldX op)) ∧
  ∀ x : Reg, EncodesTo (.skp x) (0xE09E + x.val * 256) ∧ EncodesTo (.sknp x) (0xE0A1 + x.val * 256) ∧
    ∀ s : State,
      (∃ t, exec (.skp x) s = .next t ∧ OnlyPc s t ∧
        t.pc.toNat = if (s.reg x).toNat ≤ 15 ∧ s.keys.getLsbD (s.reg x).toNat = true then (s.pc.toNat + 2) % 4096
          else s.pc.toNat) ∧
      ∃ t, exec (.sknp x) s = .next t ∧ OnlyPc s t ∧
        t.pc.toNat = if (s.reg x).toNat ≤ 15 ∧ s.keys.getLsbD (s.reg x).toNat = true then s.pc.toNat
          else (s.pc.toNat + 2) % 4096

/-- `LD Vx,DT`, `LD DT,Vx`, `LD ST,Vx`: encoding; the copy, nothing else changed; and at the end of the step the timer
just read or written is one lower if it was nonzero (45_keypad_timers.md R152, R154, R155). -/
def Obligations.TimerCopies : Prop :=
  DecodesAs 0xF0FF#16 0xF007#16 (fun op => .ldVxDt (fieldX op)) ∧
  DecodesAs 0xF0FF#16 0xF015#16 (fun op => .ldDtVx (fieldX op)) ∧
  DecodesAs 0xF0FF#16 0xF018#16 (fun op => .ldStVx (fieldX op)) ∧
  ∀ x : Reg, EncodesTo (.ldVxDt x) (0xF007 + x.val * 256) ∧ EncodesTo (.ldDtVx x) (0xF015 + x.val * 256) ∧
    EncodesTo (.ldStVx x) (0xF018 + x.val * 256) ∧
    (∀ s : State,
      (∃ t, exec (.ldVxDt x) s = .next t ∧ t.reg x = s.dt ∧ OnlyRegs [x] s t) ∧
      (∃ t, exec (.ldDtVx x) s = .next t ∧ t.dt = s.reg x ∧ t.st = s.st ∧ SameRegsBut [] s t ∧ t.i = s.i ∧ t.pc = s.pc ∧
        t.stack = s.stack ∧ SameMemory s t ∧ SameDisplay s t ∧ t.result = s.result ∧ SameInputs s t) ∧
      ∃ t, exec (.ldStVx x) s = .next t ∧ t.st = s.reg x ∧ t.dt = s.dt ∧ SameRegsBut [] s t ∧ t.i = s.i ∧ t.pc = s.pc ∧
        t.stack = s.stack ∧ SameMemory s t ∧ SameDisplay s t ∧ t.result = s.result ∧ SameInputs s t) ∧
    (∀ s : State, decodeWord (fetch s) = .ok (.ldVxDt x) →
      ∃ t, step s = .next t ∧ t.reg x = s.dt ∧ t.dt.toNat = s.dt.toNat - 1) ∧
    (∀ s : State, decodeWord (fetch s) = .ok (.ldDtVx x) →
      ∃ t, step s = .next t ∧ t.dt.toNat = (s.reg x).toNat - 1) ∧
    ∀ s : State, decodeWord (fetch s) = .ok (.ldStVx x) →
      ∃ t, step s = .next t ∧ t.st.toNat = (s.reg x).toNat - 1

/-- `LD Vx,K`: encoding; with a key pressed, the lowest-numbered one goes to `V[x]` and nothing else changes
(45_keypad_timers.md R153; the lowest key is the spec's decision D12). Holds for every nonzero key vector. -/
def Obligations.KeyWaitTakesLowestKey : Prop :=
  DecodesAs 0xF0FF#16 0xF00A#16 (fun op => .ldVxK (fieldX op)) ∧
  ∀ x : Reg, EncodesTo (.ldVxK x) (0xF00A + x.val * 256) ∧
    ∀ s : State, s.keys ≠ 0 → ∃ t, exec (.ldVxK x) s = .next t ∧ OnlyRegs [x] s t ∧ (t.reg x).toNat ≤ 15 ∧
      s.keys.getLsbD (t.reg x).toNat = true ∧ ∀ j, j < (t.reg x).toNat → s.keys.getLsbD j = false

/-- `LD Vx,K` with no key pressed: `pc` goes back by 2 modulo 4096 and nothing else of the core changes; the whole step
leaves `pc` at the instruction itself, the timers decayed, the result WaitingForKey, and the same word is fetched
next (45_keypad_timers.md R153, 40_step_cycle.md R98; timers decay while waiting by the spec's decision D19). -/
def Obligations.KeyWaitBlocks : Prop :=
  (∀ (x : Reg) (s : State), s.keys = 0 → ∃ t, exec (.ldVxK x) s = .next t ∧
    (t.pc.toNat + 2) % 4096 = s.pc.toNat ∧ t.result = .waitingForKey ∧
    SameRegsBut [] s t ∧ t.i = s.i ∧ SameTimers s t ∧ t.stack = s.stack ∧ SameMemory s t ∧ SameDisplay s t ∧
    SameInputs s t) ∧
  ∀ (x : Reg) (s : State), s.keys = 0 → decodeWord (fetch s) = .ok (.ldVxK x) →
    ∃ t, step s = .next t ∧ t.pc = s.pc ∧ fetch t = fetch s ∧ t.result = .waitingForKey ∧
      t.dt.toNat = s.dt.toNat - 1 ∧ t.st.toNat = s.st.toNat - 1 ∧ SameCore s { t with dt := s.dt, st := s.st }

/-! ## Reset, load, the end of a program -/

/-- The state after reset (10_state.md R33, with no program bytes): registers, I, timers 0, `pc` 0x200, the stack empty,
the display dark, the 80 font bytes of R52 at 0x000 to 0x04F (digits 0 and 1 are the source's own bytes; digits 2 to F are
the spec's general knowledge G1, log entry 8), memory zero from 0x050 on. That the result reads Ok is the model's choice
(log entry 4) and is not stated here. -/
def Obligations.ResetState : Prop :=
  (∀ r, State.reset.reg r = 0) ∧ State.reset.i = 0 ∧ State.reset.pc.toNat = 0x200 ∧ State.reset.dt = 0 ∧
  State.reset.st = 0 ∧ State.reset.stack = [] ∧ (∀ row col, State.reset.disp.cell row col = false) ∧
  (List.range 0x050).map (fun a => State.reset.mem.read (BitVec.ofNat 12 a)) = digitRows.flatten ∧
  ∀ a : Addr, 0x050 ≤ a.toNat → State.reset.mem.read a = 0

/-- `load` of a program that fits gives the reset state with the image at 0x200: byte `k` at 0x200 + k, every other byte
as after reset (10_state.md R33, 70_reset_and_hazards.md R180, R183; one operation for reset and load is the spec's
decision D18). -/
def Obligations.LoadPlacesProgram : Prop :=
  ∀ (prog : List Byte) (s : State), prog.length ≤ 3584 → ∃ t, load prog s = .next t ∧
    (∀ k b, prog[k]? = some b → t.mem.read (BitVec.ofNat 12 (0x200 + k)) = b) ∧
    (∀ a : Addr, a.toNat < 0x200 ∨ 0x200 + prog.length ≤ a.toNat → t.mem.read a = State.reset.mem.read a) ∧
    t.v = State.reset.v ∧ t.i = State.reset.i ∧ t.pc = State.reset.pc ∧ t.dt = State.reset.dt ∧ t.st = State.reset.st ∧
    t.stack = State.reset.stack ∧ t.disp = State.reset.disp

/-- `load` refuses exactly the programs over 3584 bytes, with ProgramTooLarge and no state; every other load succeeds
(60_exceptions.md R164). -/
def Obligations.LoadRefusesTooLarge : Prop :=
  ∀ (prog : List Byte) (s : State), (load prog s = .fault .programTooLarge ↔ prog.length > 3584) ∧
    ((∃ t, load prog s = .next t) ↔ prog.length ≤ 3584)

/-- Running off the program: a zero word clears the display and goes on to the next word
(70_reset_and_hazards.md R190; decisions D1 and D11). -/
def Obligations.ZeroWordClearsAndGoesOn : Prop :=
  ∀ s : State, s.mem.read s.pc = 0 → s.mem.read (s.pc + 1) = 0 →
    ∃ t, step s = .next t ∧ t.result = .ok ∧ t.pc.toNat = (s.pc.toNat + 2) % 4096 ∧
      (∀ row col, t.disp.cell row col = false) ∧ SameMemory s t ∧ SameRegsBut [] s t ∧ t.i = s.i ∧ t.stack = s.stack

/-- A jump to its own address is the end of a program: no state but the timers changes any more, and the same word is
fetched next (70_reset_and_hazards.md R192; decision D21). -/
def Obligations.SelfJumpIdles : Prop :=
  ∀ s : State, decodeWord (fetch s) = .ok (.jp s.pc) →
    ∃ t, step s = .next t ∧ t.result = .ok ∧ fetch t = fetch s ∧ t.dt.toNat = s.dt.toNat - 1 ∧
      t.st.toNat = s.st.toNat - 1 ∧ SameCore s { t with dt := s.dt, st := s.st }
end

