-- ==== Sys2Proof/Laws/Memory.lean ====
section
/-! SUPPORT. Memory: what a read gives after a write, and that every operation keeps the canonical form. -/

namespace Sys2Proof.Machine

theorem Memory.get_erase (m : Memory) (a c : Nat) :
    Memory.get c (Memory.erase a m) = if c = a then resetByte c else Memory.get c m := by
  induction m with
  | nil => simp [Memory.erase, Memory.get]
  | cons e m ih =>
    obtain ⟨k, b⟩ := e
    by_cases hk : k = a
    · subst hk
      have : Memory.erase k ((k, b) :: m) = Memory.erase k m := by simp [Memory.erase]
      rw [this, ih]
      by_cases hc : c = k <;> simp [Memory.get, hc]
    · have : Memory.erase a ((k, b) :: m) = (k, b) :: Memory.erase a m := by simp [Memory.erase, hk]
      rw [this]
      by_cases hc : c = k
      · subst hc; simp [Memory.get, hk]
      · simp [Memory.get, hc, ih]

theorem Memory.get_insert (m : Memory) (a c : Nat) (b : Byte) (h : ∀ e ∈ m, e.1 ≠ a) :
    Memory.get c (Memory.insert a b m) = if c = a then b else Memory.get c m := by
  induction m with
  | nil => simp [Memory.insert, Memory.get]
  | cons e m ih =>
    obtain ⟨k, d⟩ := e
    have hk : k ≠ a := h (k, d) (by simp)
    have ih' := ih (fun e he => h e (by simp [he]))
    by_cases hlt : a < k
    · simp [Memory.insert, hlt, Memory.get]
    · simp only [Memory.insert, hlt, if_false, Memory.get, ih']
      by_cases hc : c = k
      · subst hc; simp [hk]
      · simp [hc]

theorem Memory.not_mem_erase (m : Memory) (a : Nat) : ∀ e ∈ Memory.erase a m, e.1 ≠ a := by
  intro e he; simpa using (List.mem_filter.mp he).2

/-- A read after a write: the byte written at its address, what was there before at every other. -/
theorem Memory.read_write (m : Memory) (a c : Addr) (b : Byte) :
    (m.write a b).read c = if c = a then b else m.read c := by
  have hc : c.toNat = a.toNat ↔ c = a := BitVec.toNat_inj
  unfold Memory.write Memory.read
  split
  · next h =>
    rw [Memory.get_erase]
    by_cases hca : c = a
    · subst hca; simp [h]
    · simp [hca, hc]
  · rw [Memory.get_insert _ _ _ _ (Memory.not_mem_erase m a.toNat), Memory.get_erase]
    by_cases hca : c = a
    · simp [hca]
    · simp [hca, hc]

/-- What `writeBytes` can do: the byte at distance `k` above `a` is the `k`-th written, every other byte is as before. -/
theorem Memory.read_writeBytes (bs : List Byte) (m : Memory) (a c : Addr) (h : bs.length ≤ Config.memSize) :
    (m.writeBytes a bs).read c = (bs[(c - a).toNat]?).getD (m.read c) := by
  induction bs generalizing m a with
  | nil => simp [Memory.writeBytes]
  | cons b bs ih =>
    have h' : bs.length < 4096 := by simp [Config.memSize] at h; omega
    rw [Memory.writeBytes, ih _ _ (by simp [Config.memSize]; omega), Memory.read_write]
    by_cases hca : c = a
    · subst hca
      have hd : (c - (c + 1)).toNat = 4095 := by
        have : c - (c + 1) = 4095#12 := by bv_omega
        rw [this]; rfl
      rw [hd, List.getElem?_eq_none (by omega)]
      simp
    · have h0 : (c - a).toNat ≠ 0 := by
        intro hz
        exact hca (by bv_omega)
      have hs : (c - a).toNat = (c - (a + 1)).toNat + 1 := by bv_omega
      simp [hca, hs]

theorem Memory.wfFrom_mono {lo lo' : Nat} (hl : lo' ≤ lo) (m : Memory) (h : Memory.wfFrom lo m = true) :
    Memory.wfFrom lo' m = true := by
  cases m with
  | nil => rfl
  | cons e m =>
    obtain ⟨k, b⟩ := e
    simp only [Memory.wfFrom, Bool.and_eq_true, decide_eq_true_eq] at h ⊢
    exact ⟨⟨⟨hl.trans h.1.1.1, h.1.1.2⟩, h.1.2⟩, h.2⟩

theorem Memory.wfFrom_erase (m : Memory) (a lo : Nat) (h : Memory.wfFrom lo m = true) :
    Memory.wfFrom lo (Memory.erase a m) = true := by
  induction m generalizing lo with
  | nil => rfl
  | cons e m ih =>
    obtain ⟨k, b⟩ := e
    simp only [Memory.wfFrom, Bool.and_eq_true, decide_eq_true_eq] at h
    obtain ⟨⟨⟨h1, h2⟩, h3⟩, h4⟩ := h
    by_cases hk : k = a
    · have : Memory.erase a ((k, b) :: m) = Memory.erase a m := by simp [Memory.erase, hk]
      rw [this]
      exact Memory.wfFrom_mono (by omega) _ (ih _ h4)
    · have : Memory.erase a ((k, b) :: m) = (k, b) :: Memory.erase a m := by simp [Memory.erase, hk]
      rw [this]
      simp [Memory.wfFrom, h1, h2, h3, ih _ h4]

theorem Memory.wfFrom_insert (m : Memory) (a lo : Nat) (b : Byte) (hlo : lo ≤ a) (ha : a < Config.memSize)
    (hb : b ≠ resetByte a) (hm : ∀ e ∈ m, e.1 ≠ a) (h : Memory.wfFrom lo m = true) :
    Memory.wfFrom lo (Memory.insert a b m) = true := by
  induction m generalizing lo with
  | nil => simp [Memory.insert, Memory.wfFrom, hlo, ha, hb]
  | cons e m ih =>
    obtain ⟨k, d⟩ := e
    simp only [Memory.wfFrom, Bool.and_eq_true, decide_eq_true_eq] at h
    obtain ⟨⟨⟨h1, h2⟩, h3⟩, h4⟩ := h
    have hk : k ≠ a := hm (k, d) (by simp)
    by_cases hlt : a < k
    · have hak : a + 1 ≤ k := hlt
      simp [Memory.insert, hlt, Memory.wfFrom, hlo, ha, hb, h2, h3, h4, hak]
    · have hka : k + 1 ≤ a := by omega
      simp [Memory.insert, hlt, Memory.wfFrom, h1, h2, h3, ih _ hka (fun e he => hm e (by simp [he])) h4]

/-- A write keeps the canonical form. -/
theorem Memory.wf_write (m : Memory) (a : Addr) (b : Byte) (h : m.wf = true) : (m.write a b).wf = true := by
  have he := Memory.wfFrom_erase m a.toNat 0 h
  unfold Memory.write
  split
  · exact he
  · next hb =>
    exact Memory.wfFrom_insert _ _ _ _ (Nat.zero_le _) (by simpa [Config.memSize] using a.isLt) hb
      (Memory.not_mem_erase m a.toNat) he

/-- Writing bytes keeps the canonical form. -/
theorem Memory.wf_writeBytes (bs : List Byte) (m : Memory) (a : Addr) (h : m.wf = true) :
    (m.writeBytes a bs).wf = true := by
  induction bs generalizing m a with
  | nil => exact h
  | cons b bs ih => exact ih _ _ (Memory.wf_write m a b h)

/-- The memory after reset is in canonical form. -/
theorem Memory.wf_reset : Memory.wf State.reset.mem = true := rfl

end Sys2Proof.Machine
end

