-- ==== Sys2Proof/Laws/State.lean ====
section
/-! SUPPORT. One lemma per update and field of State, each true by rfl, so that no proof unfolds a record update. -/

namespace Sys2Proof.Machine

@[simp] theorem State.setReg_v (s : State) (r : Reg) (b : Byte) : (s.setReg r b).v = s.v.set r b := rfl
@[simp] theorem State.setReg_i (s : State) (r : Reg) (b : Byte) : (s.setReg r b).i = s.i := rfl
@[simp] theorem State.setReg_pc (s : State) (r : Reg) (b : Byte) : (s.setReg r b).pc = s.pc := rfl
@[simp] theorem State.setReg_dt (s : State) (r : Reg) (b : Byte) : (s.setReg r b).dt = s.dt := rfl
@[simp] theorem State.setReg_st (s : State) (r : Reg) (b : Byte) : (s.setReg r b).st = s.st := rfl
@[simp] theorem State.setReg_stack (s : State) (r : Reg) (b : Byte) : (s.setReg r b).stack = s.stack := rfl
@[simp] theorem State.setReg_mem (s : State) (r : Reg) (b : Byte) : (s.setReg r b).mem = s.mem := rfl
@[simp] theorem State.setReg_disp (s : State) (r : Reg) (b : Byte) : (s.setReg r b).disp = s.disp := rfl
@[simp] theorem State.setReg_result (s : State) (r : Reg) (b : Byte) : (s.setReg r b).result = s.result := rfl
@[simp] theorem State.setReg_inputs (s : State) (r : Reg) (b : Byte) : (s.setReg r b).inputs = s.inputs := rfl
@[simp] theorem State.setReg_steps (s : State) (r : Reg) (b : Byte) : (s.setReg r b).steps = s.steps := rfl

@[simp] theorem State.setRegs_v (s : State) (v : RegFile) : (s.setRegs v).v = v := rfl
@[simp] theorem State.setRegs_i (s : State) (v : RegFile) : (s.setRegs v).i = s.i := rfl
@[simp] theorem State.setRegs_pc (s : State) (v : RegFile) : (s.setRegs v).pc = s.pc := rfl
@[simp] theorem State.setRegs_dt (s : State) (v : RegFile) : (s.setRegs v).dt = s.dt := rfl
@[simp] theorem State.setRegs_st (s : State) (v : RegFile) : (s.setRegs v).st = s.st := rfl
@[simp] theorem State.setRegs_stack (s : State) (v : RegFile) : (s.setRegs v).stack = s.stack := rfl
@[simp] theorem State.setRegs_mem (s : State) (v : RegFile) : (s.setRegs v).mem = s.mem := rfl
@[simp] theorem State.setRegs_disp (s : State) (v : RegFile) : (s.setRegs v).disp = s.disp := rfl
@[simp] theorem State.setRegs_result (s : State) (v : RegFile) : (s.setRegs v).result = s.result := rfl
@[simp] theorem State.setRegs_inputs (s : State) (v : RegFile) : (s.setRegs v).inputs = s.inputs := rfl
@[simp] theorem State.setRegs_steps (s : State) (v : RegFile) : (s.setRegs v).steps = s.steps := rfl

@[simp] theorem State.setI_v (s : State) (a : Addr) : (s.setI a).v = s.v := rfl
@[simp] theorem State.setI_i (s : State) (a : Addr) : (s.setI a).i = a := rfl
@[simp] theorem State.setI_pc (s : State) (a : Addr) : (s.setI a).pc = s.pc := rfl
@[simp] theorem State.setI_dt (s : State) (a : Addr) : (s.setI a).dt = s.dt := rfl
@[simp] theorem State.setI_st (s : State) (a : Addr) : (s.setI a).st = s.st := rfl
@[simp] theorem State.setI_stack (s : State) (a : Addr) : (s.setI a).stack = s.stack := rfl
@[simp] theorem State.setI_mem (s : State) (a : Addr) : (s.setI a).mem = s.mem := rfl
@[simp] theorem State.setI_disp (s : State) (a : Addr) : (s.setI a).disp = s.disp := rfl
@[simp] theorem State.setI_result (s : State) (a : Addr) : (s.setI a).result = s.result := rfl
@[simp] theorem State.setI_inputs (s : State) (a : Addr) : (s.setI a).inputs = s.inputs := rfl
@[simp] theorem State.setI_steps (s : State) (a : Addr) : (s.setI a).steps = s.steps := rfl

@[simp] theorem State.setPc_v (s : State) (a : Addr) : (s.setPc a).v = s.v := rfl
@[simp] theorem State.setPc_i (s : State) (a : Addr) : (s.setPc a).i = s.i := rfl
@[simp] theorem State.setPc_pc (s : State) (a : Addr) : (s.setPc a).pc = a := rfl
@[simp] theorem State.setPc_dt (s : State) (a : Addr) : (s.setPc a).dt = s.dt := rfl
@[simp] theorem State.setPc_st (s : State) (a : Addr) : (s.setPc a).st = s.st := rfl
@[simp] theorem State.setPc_stack (s : State) (a : Addr) : (s.setPc a).stack = s.stack := rfl
@[simp] theorem State.setPc_mem (s : State) (a : Addr) : (s.setPc a).mem = s.mem := rfl
@[simp] theorem State.setPc_disp (s : State) (a : Addr) : (s.setPc a).disp = s.disp := rfl
@[simp] theorem State.setPc_result (s : State) (a : Addr) : (s.setPc a).result = s.result := rfl
@[simp] theorem State.setPc_inputs (s : State) (a : Addr) : (s.setPc a).inputs = s.inputs := rfl
@[simp] theorem State.setPc_steps (s : State) (a : Addr) : (s.setPc a).steps = s.steps := rfl

@[simp] theorem State.setDt_v (s : State) (b : Byte) : (s.setDt b).v = s.v := rfl
@[simp] theorem State.setDt_i (s : State) (b : Byte) : (s.setDt b).i = s.i := rfl
@[simp] theorem State.setDt_pc (s : State) (b : Byte) : (s.setDt b).pc = s.pc := rfl
@[simp] theorem State.setDt_dt (s : State) (b : Byte) : (s.setDt b).dt = b := rfl
@[simp] theorem State.setDt_st (s : State) (b : Byte) : (s.setDt b).st = s.st := rfl
@[simp] theorem State.setDt_stack (s : State) (b : Byte) : (s.setDt b).stack = s.stack := rfl
@[simp] theorem State.setDt_mem (s : State) (b : Byte) : (s.setDt b).mem = s.mem := rfl
@[simp] theorem State.setDt_disp (s : State) (b : Byte) : (s.setDt b).disp = s.disp := rfl
@[simp] theorem State.setDt_result (s : State) (b : Byte) : (s.setDt b).result = s.result := rfl
@[simp] theorem State.setDt_inputs (s : State) (b : Byte) : (s.setDt b).inputs = s.inputs := rfl
@[simp] theorem State.setDt_steps (s : State) (b : Byte) : (s.setDt b).steps = s.steps := rfl

@[simp] theorem State.setSt_v (s : State) (b : Byte) : (s.setSt b).v = s.v := rfl
@[simp] theorem State.setSt_i (s : State) (b : Byte) : (s.setSt b).i = s.i := rfl
@[simp] theorem State.setSt_pc (s : State) (b : Byte) : (s.setSt b).pc = s.pc := rfl
@[simp] theorem State.setSt_dt (s : State) (b : Byte) : (s.setSt b).dt = s.dt := rfl
@[simp] theorem State.setSt_st (s : State) (b : Byte) : (s.setSt b).st = b := rfl
@[simp] theorem State.setSt_stack (s : State) (b : Byte) : (s.setSt b).stack = s.stack := rfl
@[simp] theorem State.setSt_mem (s : State) (b : Byte) : (s.setSt b).mem = s.mem := rfl
@[simp] theorem State.setSt_disp (s : State) (b : Byte) : (s.setSt b).disp = s.disp := rfl
@[simp] theorem State.setSt_result (s : State) (b : Byte) : (s.setSt b).result = s.result := rfl
@[simp] theorem State.setSt_inputs (s : State) (b : Byte) : (s.setSt b).inputs = s.inputs := rfl
@[simp] theorem State.setSt_steps (s : State) (b : Byte) : (s.setSt b).steps = s.steps := rfl

@[simp] theorem State.setMem_v (s : State) (m : Memory) : (s.setMem m).v = s.v := rfl
@[simp] theorem State.setMem_i (s : State) (m : Memory) : (s.setMem m).i = s.i := rfl
@[simp] theorem State.setMem_pc (s : State) (m : Memory) : (s.setMem m).pc = s.pc := rfl
@[simp] theorem State.setMem_dt (s : State) (m : Memory) : (s.setMem m).dt = s.dt := rfl
@[simp] theorem State.setMem_st (s : State) (m : Memory) : (s.setMem m).st = s.st := rfl
@[simp] theorem State.setMem_stack (s : State) (m : Memory) : (s.setMem m).stack = s.stack := rfl
@[simp] theorem State.setMem_mem (s : State) (m : Memory) : (s.setMem m).mem = m := rfl
@[simp] theorem State.setMem_disp (s : State) (m : Memory) : (s.setMem m).disp = s.disp := rfl
@[simp] theorem State.setMem_result (s : State) (m : Memory) : (s.setMem m).result = s.result := rfl
@[simp] theorem State.setMem_inputs (s : State) (m : Memory) : (s.setMem m).inputs = s.inputs := rfl
@[simp] theorem State.setMem_steps (s : State) (m : Memory) : (s.setMem m).steps = s.steps := rfl

@[simp] theorem State.setDisp_v (s : State) (d : Display) : (s.setDisp d).v = s.v := rfl
@[simp] theorem State.setDisp_i (s : State) (d : Display) : (s.setDisp d).i = s.i := rfl
@[simp] theorem State.setDisp_pc (s : State) (d : Display) : (s.setDisp d).pc = s.pc := rfl
@[simp] theorem State.setDisp_dt (s : State) (d : Display) : (s.setDisp d).dt = s.dt := rfl
@[simp] theorem State.setDisp_st (s : State) (d : Display) : (s.setDisp d).st = s.st := rfl
@[simp] theorem State.setDisp_stack (s : State) (d : Display) : (s.setDisp d).stack = s.stack := rfl
@[simp] theorem State.setDisp_mem (s : State) (d : Display) : (s.setDisp d).mem = s.mem := rfl
@[simp] theorem State.setDisp_disp (s : State) (d : Display) : (s.setDisp d).disp = d := rfl
@[simp] theorem State.setDisp_result (s : State) (d : Display) : (s.setDisp d).result = s.result := rfl
@[simp] theorem State.setDisp_inputs (s : State) (d : Display) : (s.setDisp d).inputs = s.inputs := rfl
@[simp] theorem State.setDisp_steps (s : State) (d : Display) : (s.setDisp d).steps = s.steps := rfl

@[simp] theorem State.setStack_v (s : State) (l : List Addr) : (s.setStack l).v = s.v := rfl
@[simp] theorem State.setStack_i (s : State) (l : List Addr) : (s.setStack l).i = s.i := rfl
@[simp] theorem State.setStack_pc (s : State) (l : List Addr) : (s.setStack l).pc = s.pc := rfl
@[simp] theorem State.setStack_dt (s : State) (l : List Addr) : (s.setStack l).dt = s.dt := rfl
@[simp] theorem State.setStack_st (s : State) (l : List Addr) : (s.setStack l).st = s.st := rfl
@[simp] theorem State.setStack_stack (s : State) (l : List Addr) : (s.setStack l).stack = l := rfl
@[simp] theorem State.setStack_mem (s : State) (l : List Addr) : (s.setStack l).mem = s.mem := rfl
@[simp] theorem State.setStack_disp (s : State) (l : List Addr) : (s.setStack l).disp = s.disp := rfl
@[simp] theorem State.setStack_result (s : State) (l : List Addr) : (s.setStack l).result = s.result := rfl
@[simp] theorem State.setStack_inputs (s : State) (l : List Addr) : (s.setStack l).inputs = s.inputs := rfl
@[simp] theorem State.setStack_steps (s : State) (l : List Addr) : (s.setStack l).steps = s.steps := rfl

@[simp] theorem State.setResult_v (s : State) (r : StepResult) : (s.setResult r).v = s.v := rfl
@[simp] theorem State.setResult_i (s : State) (r : StepResult) : (s.setResult r).i = s.i := rfl
@[simp] theorem State.setResult_pc (s : State) (r : StepResult) : (s.setResult r).pc = s.pc := rfl
@[simp] theorem State.setResult_dt (s : State) (r : StepResult) : (s.setResult r).dt = s.dt := rfl
@[simp] theorem State.setResult_st (s : State) (r : StepResult) : (s.setResult r).st = s.st := rfl
@[simp] theorem State.setResult_stack (s : State) (r : StepResult) : (s.setResult r).stack = s.stack := rfl
@[simp] theorem State.setResult_mem (s : State) (r : StepResult) : (s.setResult r).mem = s.mem := rfl
@[simp] theorem State.setResult_disp (s : State) (r : StepResult) : (s.setResult r).disp = s.disp := rfl
@[simp] theorem State.setResult_result (s : State) (r : StepResult) : (s.setResult r).result = r := rfl
@[simp] theorem State.setResult_inputs (s : State) (r : StepResult) : (s.setResult r).inputs = s.inputs := rfl
@[simp] theorem State.setResult_steps (s : State) (r : StepResult) : (s.setResult r).steps = s.steps := rfl

@[simp] theorem State.raise_v (s : State) (k : Fault) : (s.raise k).v = s.v := rfl
@[simp] theorem State.raise_i (s : State) (k : Fault) : (s.raise k).i = s.i := rfl
@[simp] theorem State.raise_pc (s : State) (k : Fault) : (s.raise k).pc = s.pc := rfl
@[simp] theorem State.raise_dt (s : State) (k : Fault) : (s.raise k).dt = s.dt := rfl
@[simp] theorem State.raise_st (s : State) (k : Fault) : (s.raise k).st = s.st := rfl
@[simp] theorem State.raise_stack (s : State) (k : Fault) : (s.raise k).stack = s.stack := rfl
@[simp] theorem State.raise_mem (s : State) (k : Fault) : (s.raise k).mem = s.mem := rfl
@[simp] theorem State.raise_disp (s : State) (k : Fault) : (s.raise k).disp = s.disp := rfl
@[simp] theorem State.raise_result (s : State) (k : Fault) : (s.raise k).result = .fault k := rfl
@[simp] theorem State.raise_inputs (s : State) (k : Fault) : (s.raise k).inputs = s.inputs := rfl
@[simp] theorem State.raise_steps (s : State) (k : Fault) : (s.raise k).steps = s.steps := rfl

@[simp] theorem State.setFlag_v (s : State) (f : Bool) : (s.setFlag f).v = s.v.set regVF (flagByte f) := rfl
@[simp] theorem State.setFlag_i (s : State) (f : Bool) : (s.setFlag f).i = s.i := rfl
@[simp] theorem State.setFlag_pc (s : State) (f : Bool) : (s.setFlag f).pc = s.pc := rfl
@[simp] theorem State.setFlag_dt (s : State) (f : Bool) : (s.setFlag f).dt = s.dt := rfl
@[simp] theorem State.setFlag_st (s : State) (f : Bool) : (s.setFlag f).st = s.st := rfl
@[simp] theorem State.setFlag_stack (s : State) (f : Bool) : (s.setFlag f).stack = s.stack := rfl
@[simp] theorem State.setFlag_mem (s : State) (f : Bool) : (s.setFlag f).mem = s.mem := rfl
@[simp] theorem State.setFlag_disp (s : State) (f : Bool) : (s.setFlag f).disp = s.disp := rfl
@[simp] theorem State.setFlag_result (s : State) (f : Bool) : (s.setFlag f).result = s.result := rfl
@[simp] theorem State.setFlag_inputs (s : State) (f : Bool) : (s.setFlag f).inputs = s.inputs := rfl
@[simp] theorem State.setFlag_steps (s : State) (f : Bool) : (s.setFlag f).steps = s.steps := rfl

@[simp] theorem State.consumeInput_v (s : State) : (s.consumeInput).v = s.v := rfl
@[simp] theorem State.consumeInput_i (s : State) : (s.consumeInput).i = s.i := rfl
@[simp] theorem State.consumeInput_pc (s : State) : (s.consumeInput).pc = s.pc := rfl
@[simp] theorem State.consumeInput_dt (s : State) : (s.consumeInput).dt = s.dt := rfl
@[simp] theorem State.consumeInput_st (s : State) : (s.consumeInput).st = s.st := rfl
@[simp] theorem State.consumeInput_stack (s : State) : (s.consumeInput).stack = s.stack := rfl
@[simp] theorem State.consumeInput_mem (s : State) : (s.consumeInput).mem = s.mem := rfl
@[simp] theorem State.consumeInput_disp (s : State) : (s.consumeInput).disp = s.disp := rfl
@[simp] theorem State.consumeInput_result (s : State) : (s.consumeInput).result = s.result := rfl
@[simp] theorem State.consumeInput_inputs (s : State) : (s.consumeInput).inputs = s.inputs.tail := rfl
@[simp] theorem State.consumeInput_steps (s : State) : (s.consumeInput).steps = s.steps + 1 := rfl

/-! The derived reads: a register, and the step's inputs. -/

@[simp] theorem State.setI_reg (s : State) (a : Addr) (q : Reg) : (s.setI a).reg q = s.reg q := rfl
@[simp] theorem State.setPc_reg (s : State) (a : Addr) (q : Reg) : (s.setPc a).reg q = s.reg q := rfl
@[simp] theorem State.setDt_reg (s : State) (b : Byte) (q : Reg) : (s.setDt b).reg q = s.reg q := rfl
@[simp] theorem State.setSt_reg (s : State) (b : Byte) (q : Reg) : (s.setSt b).reg q = s.reg q := rfl
@[simp] theorem State.setMem_reg (s : State) (m : Memory) (q : Reg) : (s.setMem m).reg q = s.reg q := rfl
@[simp] theorem State.setDisp_reg (s : State) (d : Display) (q : Reg) : (s.setDisp d).reg q = s.reg q := rfl
@[simp] theorem State.setStack_reg (s : State) (l : List Addr) (q : Reg) : (s.setStack l).reg q = s.reg q := rfl
@[simp] theorem State.setResult_reg (s : State) (r : StepResult) (q : Reg) : (s.setResult r).reg q = s.reg q := rfl
@[simp] theorem State.raise_reg (s : State) (k : Fault) (q : Reg) : (s.raise k).reg q = s.reg q := rfl
@[simp] theorem State.consumeInput_reg (s : State) (q : Reg) : s.consumeInput.reg q = s.reg q := rfl
@[simp] theorem State.setReg_input (s : State) (r : Reg) (b : Byte) : (s.setReg r b).input = s.input := rfl
@[simp] theorem State.setReg_keys (s : State) (r : Reg) (b : Byte) : (s.setReg r b).keys = s.keys := rfl
@[simp] theorem State.setReg_rnd (s : State) (r : Reg) (b : Byte) : (s.setReg r b).rnd = s.rnd := rfl
@[simp] theorem State.setRegs_input (s : State) (v : RegFile) : (s.setRegs v).input = s.input := rfl
@[simp] theorem State.setRegs_keys (s : State) (v : RegFile) : (s.setRegs v).keys = s.keys := rfl
@[simp] theorem State.setRegs_rnd (s : State) (v : RegFile) : (s.setRegs v).rnd = s.rnd := rfl
@[simp] theorem State.setI_input (s : State) (a : Addr) : (s.setI a).input = s.input := rfl
@[simp] theorem State.setI_keys (s : State) (a : Addr) : (s.setI a).keys = s.keys := rfl
@[simp] theorem State.setI_rnd (s : State) (a : Addr) : (s.setI a).rnd = s.rnd := rfl
@[simp] theorem State.setPc_input (s : State) (a : Addr) : (s.setPc a).input = s.input := rfl
@[simp] theorem State.setPc_keys (s : State) (a : Addr) : (s.setPc a).keys = s.keys := rfl
@[simp] theorem State.setPc_rnd (s : State) (a : Addr) : (s.setPc a).rnd = s.rnd := rfl
@[simp] theorem State.setDt_input (s : State) (b : Byte) : (s.setDt b).input = s.input := rfl
@[simp] theorem State.setDt_keys (s : State) (b : Byte) : (s.setDt b).keys = s.keys := rfl
@[simp] theorem State.setDt_rnd (s : State) (b : Byte) : (s.setDt b).rnd = s.rnd := rfl
@[simp] theorem State.setSt_input (s : State) (b : Byte) : (s.setSt b).input = s.input := rfl
@[simp] theorem State.setSt_keys (s : State) (b : Byte) : (s.setSt b).keys = s.keys := rfl
@[simp] theorem State.setSt_rnd (s : State) (b : Byte) : (s.setSt b).rnd = s.rnd := rfl
@[simp] theorem State.setMem_input (s : State) (m : Memory) : (s.setMem m).input = s.input := rfl
@[simp] theorem State.setMem_keys (s : State) (m : Memory) : (s.setMem m).keys = s.keys := rfl
@[simp] theorem State.setMem_rnd (s : State) (m : Memory) : (s.setMem m).rnd = s.rnd := rfl
@[simp] theorem State.setDisp_input (s : State) (d : Display) : (s.setDisp d).input = s.input := rfl
@[simp] theorem State.setDisp_keys (s : State) (d : Display) : (s.setDisp d).keys = s.keys := rfl
@[simp] theorem State.setDisp_rnd (s : State) (d : Display) : (s.setDisp d).rnd = s.rnd := rfl
@[simp] theorem State.setStack_input (s : State) (l : List Addr) : (s.setStack l).input = s.input := rfl
@[simp] theorem State.setStack_keys (s : State) (l : List Addr) : (s.setStack l).keys = s.keys := rfl
@[simp] theorem State.setStack_rnd (s : State) (l : List Addr) : (s.setStack l).rnd = s.rnd := rfl
@[simp] theorem State.setResult_input (s : State) (r : StepResult) : (s.setResult r).input = s.input := rfl
@[simp] theorem State.setResult_keys (s : State) (r : StepResult) : (s.setResult r).keys = s.keys := rfl
@[simp] theorem State.setResult_rnd (s : State) (r : StepResult) : (s.setResult r).rnd = s.rnd := rfl
@[simp] theorem State.raise_input (s : State) (k : Fault) : (s.raise k).input = s.input := rfl
@[simp] theorem State.raise_keys (s : State) (k : Fault) : (s.raise k).keys = s.keys := rfl
@[simp] theorem State.raise_rnd (s : State) (k : Fault) : (s.raise k).rnd = s.rnd := rfl
@[simp] theorem State.setFlag_input (s : State) (f : Bool) : (s.setFlag f).input = s.input := rfl
@[simp] theorem State.setFlag_keys (s : State) (f : Bool) : (s.setFlag f).keys = s.keys := rfl
@[simp] theorem State.setFlag_rnd (s : State) (f : Bool) : (s.setFlag f).rnd = s.rnd := rfl

end Sys2Proof.Machine
end

