-- ==== Sys2Proof/Laws/Ops.lean ====
section
/-! SUPPORT. One lemma per shared operation over registers, keys and display: everything it can do. -/

namespace Sys2Proof.Machine

/-! ## Registers -/

/-- A register read after a register write. -/
@[simp] theorem State.reg_setReg (s : State) (r q : Reg) (b : Byte) :
    (s.setReg r b).reg q = if q = r then b else s.reg q := by
  unfold State.reg State.setReg
  simp only [Fin.getElem_fin, Vector.getElem_set, Fin.val_inj, eq_comm]

/-- A register read after the flag write. -/
@[simp] theorem State.reg_setFlag (s : State) (f : Bool) (q : Reg) :
    (s.setFlag f).reg q = if q = regVF then flagByte f else s.reg q := State.reg_setReg s regVF q _

/-- Result first, flag last: VF is the flag, `x` the result unless it is VF, and no other register changes. -/
theorem reg_writeResultFlag (x q : Reg) (result : Byte) (flag : Bool) (s : State) :
    (writeResultFlag x result flag s).reg q =
      if q = regVF then flagByte flag else if q = x then result else s.reg q := by
  simp [writeResultFlag]

theorem getElem_loadRegs (m : Memory) (a : Addr) (v : RegFile) (count k : Nat) (hk : k < 16) :
    (loadRegs m a count v)[k] = if k < count then m.read (a + BitVec.ofNat 12 k) else v[k] := by
  induction count with
  | zero => simp [loadRegs]
  | succ n ih =>
    simp only [loadRegs, Vector.getElem_setIfInBounds, ih]
    by_cases h : n = k
    · subst h; simp
    · by_cases h2 : k < n
      · simp [h, h2, Nat.lt_succ_of_lt h2]
      · simp [h, h2, show ¬ k < n + 1 by omega]

/-- The block load: `V[r]` is the byte at distance `r` for `r` below the count, every other register is as before. -/
theorem State.reg_setRegs_loadRegs (s : State) (m : Memory) (a : Addr) (count : Nat) (r : Reg) :
    (s.setRegs (loadRegs m a count s.v)).reg r =
      if r.val < count then m.read (a + BitVec.ofNat 12 r.val) else s.reg r :=
  getElem_loadRegs m a s.v count r.val r.isLt

/-- The bytes of the block store: the `k`-th is `V[k]`, for `k` up to `x`. -/
theorem getElem?_regsUpTo (s : State) (x : Reg) (k : Nat) :
    (regsUpTo s x)[k]? = if h : k ≤ x.val then some (s.reg ⟨k, by omega⟩) else none := by
  unfold regsUpTo State.reg
  by_cases h : k ≤ x.val
  · have hk : k < 16 := by omega
    simp [h, Nat.lt_succ_of_le h]
  · simp [h]

@[simp] theorem length_regsUpTo (s : State) (x : Reg) : (regsUpTo s x).length = x.val + 1 := by
  simp [regsUpTo]

/-! ## Keys -/

/-- `firstKey` finds a key: it is pressed, it is one of the sixteen, and no smaller key is pressed. -/
theorem firstKey_eq_some (keys : BitVec 16) (k : Nat) :
    firstKey keys = some k ↔ k < 16 ∧ keys.getLsbD k = true ∧ ∀ j < k, keys.getLsbD j = false := by
  unfold firstKey
  rw [List.find?_range_eq_some]
  constructor
  · rintro ⟨h1, h2, h3⟩
    exact ⟨by simpa using h2, h1, fun j hj => by simpa using h3 j hj⟩
  · rintro ⟨h1, h2, h3⟩
    exact ⟨h2, by simpa using h1, fun j hj => by simpa using h3 j hj⟩

/-- `firstKey` finds no key exactly when none is pressed. -/
theorem firstKey_eq_none (keys : BitVec 16) : firstKey keys = none ↔ keys = 0 := by
  unfold firstKey
  rw [List.find?_range_eq_none]
  constructor
  · intro h
    apply BitVec.eq_of_getLsbD_eq
    intro j hj
    simpa using h j hj
  · rintro rfl j _; simp

/-! ## Display -/

/-- A cell after a toggle: the toggled cell is inverted if it lies in the grid, every other cell is as before. -/
theorem Display.cell_toggle (d : Display) (row col r c : Nat) :
    (d.toggle row col).cell r c =
      ((d.cell r c) ^^ (decide (r = row) && decide (c = col) && decide (row < 32) && decide (col < 64))) := by
  unfold Display.toggle Display.cell
  by_cases hr : row < 32
  · by_cases hrr : r = row
    · subst hrr
      simp only [Vector.getElem?_setIfInBounds_self_of_lt hr, Option.getD_some, BitVec.getLsbD_xor,
        BitVec.getLsbD_twoPow]
      by_cases hc : c = col
      · subst hc; simp [hr]
      · simp [hc, Ne.symm hc]
    · simp [hrr, Ne.symm hrr]
  · simp [Vector.setIfInBounds_eq_of_size_le (by omega : 32 ≤ row), hr]

/-- Every cell of the cleared display is dark. -/
theorem Display.cell_clear (r c : Nat) : Display.clear.cell r c = false := by
  unfold Display.clear Display.cell
  by_cases hr : r < 32 <;> simp [hr]

end Sys2Proof.Machine
end

