-- ==== Sys2Proof/Laws/Blit.lean ====
section
/-! SUPPORT. What the XOR-blit can do, cell by cell: 44_display.md R144 in closed form. -/

namespace Sys2Proof.Machine

/-- Is the cell `(row, col)` under an applied sprite bit of 1, for sprite rows below `n`? -/
def spriteLit (cx cy n : Nat) (sprite : Nat → Byte) (row col : Nat) : Bool :=
  decide (cy ≤ row ∧ row < cy + n ∧ cx ≤ col ∧ col < cx + 8 ∧ col ≤ 63 ∧ row ≤ 31) &&
    (sprite (row - cy)).getLsbD (7 - (col - cx))

/-- The same for the first `m` columns of one sprite row. -/
def rowLit (cx cy r m : Nat) (b : Byte) (row col : Nat) : Bool :=
  decide (row = cy + r ∧ cx ≤ col ∧ col < cx + m ∧ col ≤ 63 ∧ row ≤ 31) && b.getLsbD (7 - (col - cx))

theorem blitPixel_cell (cx cy r c : Nat) (b : Byte) (acc : Display × Bool) (row col : Nat) :
    (blitPixel cx cy r b acc c).1.cell row col =
      (acc.1.cell row col ^^ (pixelApplied cx cy r c b && decide (row = cy + r ∧ col = cx + c))) := by
  unfold blitPixel
  by_cases h : pixelApplied cx cy r c b = true
  · have hg : cx + c ≤ 63 ∧ cy + r ≤ 31 := by
      simp only [pixelApplied, Bool.and_eq_true, decide_eq_true_eq] at h
      exact ⟨h.1.2, h.2⟩
    simp [h, Display.cell_toggle, show cy + r < 32 by omega, show cx + c < 64 by omega]
  · simp [h]

/-- Whether a flag so far holds after a pixel: it did, or the pixel is applied to a lit cell. -/
theorem blitPixel_hit (cx cy r c : Nat) (b : Byte) (acc : Display × Bool) :
    (blitPixel cx cy r b acc c).2 = (acc.2 || (pixelApplied cx cy r c b && acc.1.cell (cy + r) (cx + c))) := by
  unfold blitPixel
  by_cases h : pixelApplied cx cy r c b = true <;> simp [h]

theorem rowLit_succ (cx cy r m : Nat) (hm : m < 8) (b : Byte) (row col : Nat) :
    (rowLit cx cy r m b row col ^^ (pixelApplied cx cy r m b && decide (row = cy + r ∧ col = cx + m))) =
      rowLit cx cy r (m + 1) b row col := by
  unfold rowLit pixelApplied
  by_cases hr : row = cy + r
  · subst hr
    by_cases hc : col = cx + m
    · subst hc
      have : cx + m - cx = m := by omega
      simp only [this]
      by_cases h1 : cx + m ≤ 63 <;> by_cases h2 : cy + r ≤ 31 <;> simp [h1, h2]
    · have : (col < cx + m) ↔ (col < cx + (m + 1)) := by omega
      simp [hc, this]
  · simp [hr]

/-- The first `m` columns of a sprite row: the cells under its applied bits are inverted, and the flag tells whether one
of them was lit. -/
theorem blitRow_prefix (cx cy r : Nat) (b : Byte) (acc : Display × Bool) (m : Nat) (hm : m ≤ 8) :
    let out := (List.range m).foldl (blitPixel cx cy r b) acc
    (∀ row col, out.1.cell row col = (acc.1.cell row col ^^ rowLit cx cy r m b row col)) ∧
      (out.2 = true ↔ acc.2 = true ∨ ∃ row col, rowLit cx cy r m b row col = true ∧ acc.1.cell row col = true) := by
  induction m with
  | zero =>
    have h0 : ∀ row col, rowLit cx cy r 0 b row col = false := by
      intro row col
      simp only [rowLit, Nat.add_zero, Bool.and_eq_false_imp, decide_eq_true_eq]
      rintro ⟨_, h1, h2, _⟩; omega
    simp [h0]
  | succ m ih =>
    obtain ⟨ihc, ihh⟩ := ih (by omega)
    simp only [List.range_succ, List.foldl_append, List.foldl_cons, List.foldl_nil]
    refine ⟨fun row col => ?_, ?_⟩
    · rw [blitPixel_cell, ihc, Bool.xor_assoc, rowLit_succ _ _ _ _ (by omega)]
    · have hnew : rowLit cx cy r m b (cy + r) (cx + m) = false := by
        simp [rowLit]
      rw [blitPixel_hit, Bool.or_eq_true, ihh, ihc, hnew, Bool.xor_false, Bool.and_eq_true, or_assoc]
      refine or_congr_right ⟨?_, ?_⟩
      · rintro (⟨row, col, h1, h2⟩ | ⟨h1, h2⟩)
        · refine ⟨row, col, ?_, h2⟩
          rw [← rowLit_succ _ _ _ _ (by omega), h1]
          have hne : ¬ (row = cy + r ∧ col = cx + m) := by
            rintro ⟨rfl, rfl⟩; simp [hnew] at h1
          simp [hne]
        · exact ⟨cy + r, cx + m, by rw [← rowLit_succ _ _ _ _ (by omega), hnew, h1]; simp, h2⟩
      · rintro ⟨row, col, h1, h2⟩
        rw [← rowLit_succ _ _ _ _ (by omega)] at h1
        by_cases hl : rowLit cx cy r m b row col = true
        · exact .inl ⟨row, col, hl, h2⟩
        · simp only [hl, Bool.false_xor, Bool.and_eq_true, decide_eq_true_eq] at h1
          obtain ⟨h3, rfl, rfl⟩ := h1
          exact .inr ⟨h3, h2⟩

theorem spriteLit_succ (cx cy n : Nat) (sprite : Nat → Byte) (row col : Nat) :
    (spriteLit cx cy n sprite row col ^^ rowLit cx cy n 8 (sprite n) row col) =
      spriteLit cx cy (n + 1) sprite row col := by
  unfold spriteLit rowLit
  by_cases hr : row = cy + n
  · subst hr
    have : cy + n - cy = n := by omega
    simp [this]
  · have : (row < cy + n) ↔ (row < cy + (n + 1)) := by omega
    simp [hr, this]

/-- The blit: the cells under the sprite's applied bits are inverted, no other cell changes, and the flag tells whether
one of those cells was lit. -/
theorem blit_spec (cx cy n : Nat) (sprite : Nat → Byte) (d : Display) :
    (∀ row col, (blit cx cy n sprite d).1.cell row col = (d.cell row col ^^ spriteLit cx cy n sprite row col)) ∧
      ((blit cx cy n sprite d).2 = true ↔
        ∃ row col, spriteLit cx cy n sprite row col = true ∧ d.cell row col = true) := by
  unfold blit
  induction n with
  | zero =>
    have h0 : ∀ row col, spriteLit cx cy 0 sprite row col = false := by
      intro row col
      simp only [spriteLit, Nat.add_zero, Bool.and_eq_false_imp, decide_eq_true_eq]
      rintro ⟨h1, h2, _⟩; omega
    simp [h0]
  | succ n ih =>
    obtain ⟨ihc, ihh⟩ := ih
    simp only [List.range_succ, List.foldl_append, List.foldl_cons, List.foldl_nil]
    obtain ⟨hc, hh⟩ := blitRow_prefix cx cy n (sprite n)
      ((List.range n).foldl (fun acc r => blitRow cx cy r (sprite r) acc) (d, false)) 8 (le_refl 8)
    have hdisj : ∀ row col, rowLit cx cy n 8 (sprite n) row col = true →
        spriteLit cx cy n sprite row col = false := by
      intro row col h
      simp only [rowLit, Bool.and_eq_true, decide_eq_true_eq] at h
      simp only [spriteLit, Bool.and_eq_false_imp, decide_eq_true_eq]
      rintro ⟨_, h2, _⟩; omega
    refine ⟨fun row col => ?_, ?_⟩
    · rw [← spriteLit_succ, ← Bool.xor_assoc, ← ihc]; exact hc row col
    · refine hh.trans ?_
      rw [ihh]
      constructor
      · rintro (⟨row, col, h1, h2⟩ | ⟨row, col, h1, h2⟩)
        · refine ⟨row, col, ?_, h2⟩
          rw [← spriteLit_succ, h1]
          have : rowLit cx cy n 8 (sprite n) row col = false := by
            by_contra hx
            simp [hdisj row col (by simpa using hx)] at h1
          simp [this]
        · refine ⟨row, col, ?_, ?_⟩
          · rw [← spriteLit_succ, h1, hdisj row col h1]; rfl
          · rw [ihc, hdisj row col h1, Bool.xor_false] at h2; exact h2
      · rintro ⟨row, col, h1, h2⟩
        by_cases hl : spriteLit cx cy n sprite row col = true
        · exact .inl ⟨row, col, hl, h2⟩
        · rw [← spriteLit_succ] at h1
          simp only [hl, Bool.false_xor] at h1
          refine .inr ⟨row, col, h1, ?_⟩
          rw [ihc, hdisj row col h1, Bool.xor_false]; exact h2

end Sys2Proof.Machine
end

