-- ==== Sys2Proof/Laws/PerInstr.lean ====
section
/-! SUPPORT. A family of lemmas, one per instruction: its encoding is a canonical word of the opcode map. -/

namespace Sys2Proof.Laws.CanonicalEncoding

/-- The encoder emits a word of the column "canonical" of the opcode map (30_encoding.md R75), which `canonicalWord`
checks without the encoder's help. -/
def Statement (i : Sys2Proof.Instr) : Prop := Sys2Proof.canonicalWord (Sys2Proof.encode i) = true

open Sys2Proof

theorem group_wordNNN (g : BitVec 4) (nnn : Addr) : (wordNNN g nnn).extractLsb' 12 4 = g := by
  ext i hi
  simp [wordNNN, hi, show ¬ 12 + i < 12 by omega, show 12 + i < 16 by omega]

theorem group_wordXNN (g : BitVec 4) (x : Reg) (nn : Byte) : (wordXNN g x nn).extractLsb' 12 4 = g := by
  ext i hi
  simp [wordXNN, hi, show ¬ 12 + i < 12 by omega, show 12 + i < 16 by omega,
    BitVec.getLsbD_of_ge (regBits x) (12 + i - 8) (by omega), BitVec.getLsbD_of_ge nn (12 + i) (by omega)]

theorem group_wordXYN (g : BitVec 4) (x y : Reg) (n : BitVec 4) : (wordXYN g x y n).extractLsb' 12 4 = g := by
  ext i hi
  simp [wordXYN, hi, show ¬ 12 + i < 12 by omega, show 12 + i < 16 by omega,
    BitVec.getLsbD_of_ge (regBits x) (12 + i - 8) (by omega),
    BitVec.getLsbD_of_ge (regBits y) (12 + i - 4) (by omega), BitVec.getLsbD_of_ge n (12 + i) (by omega)]

theorem cls : Statement .cls := rfl

theorem ret : Statement .ret := rfl

theorem jp (nnn : Addr) : Statement (.jp nnn) := by
  simp [Statement, canonicalWord, encode, group_wordNNN]

theorem call (nnn : Addr) : Statement (.call nnn) := by
  simp [Statement, canonicalWord, encode, group_wordNNN]

theorem seByte (x : Reg) (nn : Byte) : Statement (.seByte x nn) := by
  simp [Statement, canonicalWord, encode, group_wordXNN]

theorem sneByte (x : Reg) (nn : Byte) : Statement (.sneByte x nn) := by
  simp [Statement, canonicalWord, encode, group_wordXNN]

theorem seReg (x y : Reg) : Statement (.seReg x y) := by
  revert x y; unfold Statement; decide

theorem sneReg (x y : Reg) : Statement (.sneReg x y) := by
  revert x y; unfold Statement; decide

theorem ldByte (x : Reg) (nn : Byte) : Statement (.ldByte x nn) := by
  simp [Statement, canonicalWord, encode, group_wordXNN]

theorem addByte (x : Reg) (nn : Byte) : Statement (.addByte x nn) := by
  simp [Statement, canonicalWord, encode, group_wordXNN]

theorem ldReg (x y : Reg) : Statement (.ldReg x y) := by
  revert x y; unfold Statement; decide

theorem orReg (x y : Reg) : Statement (.orReg x y) := by
  revert x y; unfold Statement; decide

theorem andReg (x y : Reg) : Statement (.andReg x y) := by
  revert x y; unfold Statement; decide

theorem xorReg (x y : Reg) : Statement (.xorReg x y) := by
  revert x y; unfold Statement; decide

theorem addReg (x y : Reg) : Statement (.addReg x y) := by
  revert x y; unfold Statement; decide

theorem subReg (x y : Reg) : Statement (.subReg x y) := by
  revert x y; unfold Statement; decide

theorem shr (x y : Reg) : Statement (.shr x y) := by
  revert x y; unfold Statement; decide

theorem subnReg (x y : Reg) : Statement (.subnReg x y) := by
  revert x y; unfold Statement; decide

theorem shl (x y : Reg) : Statement (.shl x y) := by
  revert x y; unfold Statement; decide

theorem ldI (nnn : Addr) : Statement (.ldI nnn) := by
  simp [Statement, canonicalWord, encode, group_wordNNN]

theorem jpV0 (nnn : Addr) : Statement (.jpV0 nnn) := by
  simp [Statement, canonicalWord, encode, group_wordNNN]

theorem rnd (x : Reg) (nn : Byte) : Statement (.rnd x nn) := by
  simp [Statement, canonicalWord, encode, group_wordXNN]

theorem drw (x y : Reg) (n : BitVec 4) : Statement (.drw x y n) := by
  simp [Statement, canonicalWord, encode, group_wordXYN]

theorem skp (x : Reg) : Statement (.skp x) := by
  revert x; unfold Statement; decide

theorem sknp (x : Reg) : Statement (.sknp x) := by
  revert x; unfold Statement; decide

theorem ldVxDt (x : Reg) : Statement (.ldVxDt x) := by
  revert x; unfold Statement; decide

theorem ldDtVx (x : Reg) : Statement (.ldDtVx x) := by
  revert x; unfold Statement; decide

theorem ldStVx (x : Reg) : Statement (.ldStVx x) := by
  revert x; unfold Statement; decide

theorem ldVxK (x : Reg) : Statement (.ldVxK x) := by
  revert x; unfold Statement; decide

theorem addIVx (x : Reg) : Statement (.addIVx x) := by
  revert x; unfold Statement; decide

theorem ldFVx (x : Reg) : Statement (.ldFVx x) := by
  revert x; unfold Statement; decide

theorem ldBVx (x : Reg) : Statement (.ldBVx x) := by
  revert x; unfold Statement; decide

theorem ldMemVx (x : Reg) : Statement (.ldMemVx x) := by
  revert x; unfold Statement; decide

theorem ldVxMem (x : Reg) : Statement (.ldVxMem x) := by
  revert x; unfold Statement; decide

end Sys2Proof.Laws.CanonicalEncoding
end

