-- ==== Sys2Proof/Laws/Encode.lean ====
section
/-! SUPPORT. The fields of the words the encoder builds, and the fields of a word that matches a mask. -/

namespace Sys2Proof

/-- A field the mask keeps whole is the code's. -/
theorem extractLsb'_of_and_eq {mask code op : Word} (h : op &&& mask = code) (start len : Nat)
    (hm : mask.extractLsb' start len = BitVec.allOnes len) :
    op.extractLsb' start len = code.extractLsb' start len := by
  have h' := congrArg (BitVec.extractLsb' start len) h
  rw [BitVec.extractLsb'_and, hm, BitVec.and_allOnes] at h'
  exact h'

@[simp] theorem fieldGroup_wordNNN (g : BitVec 4) (nnn : Addr) : fieldGroup (wordNNN g nnn) = g :=
  Laws.CanonicalEncoding.group_wordNNN g nnn

@[simp] theorem fieldGroup_wordXNN (g : BitVec 4) (x : Reg) (nn : Byte) : fieldGroup (wordXNN g x nn) = g :=
  Laws.CanonicalEncoding.group_wordXNN g x nn

@[simp] theorem fieldGroup_wordXYN (g : BitVec 4) (x y : Reg) (n : BitVec 4) : fieldGroup (wordXYN g x y n) = g :=
  Laws.CanonicalEncoding.group_wordXYN g x y n

@[simp] theorem fieldNNN_wordNNN (g : BitVec 4) (nnn : Addr) : fieldNNN (wordNNN g nnn) = nnn := by
  unfold fieldNNN wordNNN
  ext i hi
  simp [hi, show i < 16 by omega]

@[simp] theorem fieldNN_wordXNN (g : BitVec 4) (x : Reg) (nn : Byte) : fieldNN (wordXNN g x nn) = nn := by
  unfold fieldNN wordXNN
  ext i hi
  simp [hi, show i < 16 by omega, show i < 12 by omega]

@[simp] theorem fieldN_wordXYN (g : BitVec 4) (x y : Reg) (n : BitVec 4) : fieldN (wordXYN g x y n) = n := by
  unfold fieldN wordXYN
  ext i hi
  simp [hi, show i < 16 by omega, show i < 12 by omega, show i < 8 by omega]

/-- A register number survives its field. -/
@[simp] theorem toFin_regBits (x : Reg) : (regBits x).toFin = x := by revert x; decide

/-- A field survives being read as a register number. -/
@[simp] theorem regBits_toFin (b : BitVec 4) : regBits b.toFin = b := by revert b; decide

@[simp] theorem fieldX_wordXNN (g : BitVec 4) (x : Reg) (nn : Byte) : fieldX (wordXNN g x nn) = x := by
  have h : (wordXNN g x nn).extractLsb' 8 4 = regBits x := by
    unfold wordXNN
    ext i hi
    simp [hi, show 8 + i < 16 by omega, show 8 + i < 12 by omega]
  unfold fieldX; rw [h]; exact toFin_regBits x

@[simp] theorem fieldX_wordXYN (g : BitVec 4) (x y : Reg) (n : BitVec 4) : fieldX (wordXYN g x y n) = x := by
  have h : (wordXYN g x y n).extractLsb' 8 4 = regBits x := by
    unfold wordXYN
    ext i hi
    simp [hi, show 8 + i < 16 by omega, show 8 + i < 12 by omega, BitVec.getLsbD_of_ge n (8 + i) (by omega),
      BitVec.getLsbD_of_ge (regBits y) (8 + i - 4) (by omega)]
  unfold fieldX; rw [h]; exact toFin_regBits x

@[simp] theorem fieldY_wordXYN (g : BitVec 4) (x y : Reg) (n : BitVec 4) : fieldY (wordXYN g x y n) = y := by
  have h : (wordXYN g x y n).extractLsb' 4 4 = regBits y := by
    unfold wordXYN
    ext i hi
    simp [hi, show 4 + i < 16 by omega, show 4 + i < 12 by omega, show 4 + i < 8 by omega]
  unfold fieldY; rw [h]; exact toFin_regBits y

end Sys2Proof
end

