-- ==== Sys2Proof/Laws/Frames.lean ====
section
/-! SUPPORT. The frame of each update: what it leaves unchanged, in the terms of Safety. -/

namespace Sys2Proof.Machine

theorem onlyRegs_setReg (s : State) (x : Reg) (b : Byte) : OnlyRegs [x] s (s.setReg x b) := by
  refine ⟨fun r hr => ?_, rfl, rfl, ⟨rfl, rfl⟩, rfl, fun _ => rfl, fun _ _ => rfl, rfl, rfl, rfl⟩
  simp at hr
  simp [hr]

theorem onlyRegs_writeResultFlag (s : State) (x : Reg) (b : Byte) (f : Bool) :
    OnlyRegs [x, 15] s (writeResultFlag x b f s) := by
  refine ⟨fun r hr => ?_, rfl, rfl, ⟨rfl, rfl⟩, rfl, fun _ => rfl, fun _ _ => rfl, rfl, rfl, rfl⟩
  simp at hr
  simp [reg_writeResultFlag, regVF, hr]

theorem onlyPc_setPc (s : State) (a : Addr) : OnlyPc s (s.setPc a) :=
  ⟨fun _ _ => rfl, rfl, ⟨rfl, rfl⟩, rfl, fun _ => rfl, fun _ _ => rfl, rfl, rfl, rfl⟩

theorem onlyPc_skipIf (s : State) (c : Bool) : OnlyPc s (skipIf c s) := onlyPc_setPc s _

theorem onlyI_setI (s : State) (a : Addr) : OnlyI s (s.setI a) :=
  ⟨fun _ _ => rfl, rfl, ⟨rfl, rfl⟩, rfl, fun _ => rfl, fun _ _ => rfl, rfl, rfl, rfl⟩

theorem onlyMemory_setMem (s : State) (m : Memory) : OnlyMemory s (s.setMem m) :=
  ⟨fun _ _ => rfl, rfl, rfl, ⟨rfl, rfl⟩, rfl, fun _ _ => rfl, rfl, rfl, rfl⟩

theorem onlyResult_raise (s : State) (k : Fault) : OnlyResult s (s.raise k) :=
  ⟨fun _ _ => rfl, rfl, rfl, ⟨rfl, rfl⟩, rfl, fun _ => rfl, fun _ _ => rfl, rfl, rfl⟩

end Sys2Proof.Machine
end

