-- ==== Sys2Proof/Laws/Step.lean ====
section
/-! SUPPORT. What exec and step can do: exec always answers, and a step is one of two things. -/

namespace Sys2Proof.Machine

/-- `exec` always answers a next state: no instruction stops the machine (60_exceptions.md R173). -/
theorem exec_answers (i : Instr) (s : State) : ∃ t, exec i s = .next t := by
  cases i
  case ret => cases h : s.stack <;> simp [exec, execRet, h]
  case call nnn => by_cases h : Config.stackDepth ≤ s.stack.length <;> simp [exec, execCall, h]
  all_goals exact ⟨_, rfl⟩

/-- Inversion of `step`: the word has no handler and the step raises, or it has one and the step is the instruction on
the advanced state followed by the end of the step. -/
theorem step_cases (s t : State) (h : step s = .next t) :
    (decodeWord (fetch s) = .error .unimplementedOpcode ∧ t = finish ((advance s).raise .unimplementedOpcode)) ∨
      ∃ i u, decodeWord (fetch s) = .ok i ∧ exec i (advance s) = .next u ∧ t = finish u := by
  unfold step at h
  split at h
  · next hd => exact .inl ⟨hd, by simpa using h.symm⟩
  · next i hd =>
    obtain ⟨u, hu⟩ := exec_answers i (advance s)
    rw [hu] at h
    exact .inr ⟨i, u, hd, hu, by simpa using h.symm⟩

/-- A step of a word with a handler. -/
theorem step_of_decode (s : State) (i : Instr) (u : State) (hd : decodeWord (fetch s) = .ok i)
    (hu : exec i (advance s) = .next u) : step s = .next (finish u) := by
  unfold step; rw [hd]; simp [hu]

/-- A step of a word without a handler. -/
theorem step_of_illegal (s : State) (hd : decodeWord (fetch s) = .error .unimplementedOpcode) :
    step s = .next (finish ((advance s).raise .unimplementedOpcode)) := by
  unfold step; rw [hd]

@[simp] theorem finish_stack (s : State) : (finish s).stack = s.stack := by unfold finish; split <;> rfl
@[simp] theorem finish_mem (s : State) : (finish s).mem = s.mem := by unfold finish; split <;> rfl
@[simp] theorem finish_disp (s : State) : (finish s).disp = s.disp := by unfold finish; split <;> rfl
@[simp] theorem finish_v (s : State) : (finish s).v = s.v := by unfold finish; split <;> rfl
@[simp] theorem finish_i (s : State) : (finish s).i = s.i := by unfold finish; split <;> rfl
@[simp] theorem finish_pc (s : State) : (finish s).pc = s.pc := by unfold finish; split <;> rfl
@[simp] theorem finish_result (s : State) : (finish s).result = s.result := by unfold finish; split <;> rfl
@[simp] theorem finish_inputs (s : State) : (finish s).inputs = s.inputs.tail := by unfold finish; split <;> rfl
@[simp] theorem finish_steps (s : State) : (finish s).steps = s.steps + 1 := by unfold finish; split <;> rfl
theorem finish_dt (s : State) : (finish s).dt = if s.result.isFault then s.dt else decayed s.dt := by
  unfold finish; split <;> rfl
theorem finish_st (s : State) : (finish s).st = if s.result.isFault then s.st else decayed s.st := by
  unfold finish; split <;> rfl

/-- A timer decremented by one, saturating at 0, as a number. -/
theorem decayed_toNat (b : Byte) : (decayed b).toNat = b.toNat - 1 := by
  unfold decayed
  split
  · next h => subst h; rfl
  · next h =>
    have : b.toNat ≠ 0 := fun hz => h (BitVec.eq_of_toNat_eq (by simpa using hz))
    bv_omega

end Sys2Proof.Machine
end

