-- ==== Sys2Proof/Tests/Slice0.lean ====
section
/-! SUPPORT. Tests, each against a value written in spec/ (the vector is named), and for every obligation with hypotheses
a concrete case that meets them. -/

namespace Sys2Proof.Tests

open Sys2Proof Sys2Proof.Machine

/-- The state after one step; the state itself if the step stopped. -/
def after (s : State) : State :=
  match step s with
  | .next t => t
  | _ => s

/-- A step never stops, so `after` is the state it answers. -/
theorem step_after (s : State) : step s = .next (after s) := by
  unfold after
  cases hd : decodeWord (fetch s) with
  | error e => cases e; rw [step_of_illegal s hd]
  | ok i =>
    obtain ⟨u, hu⟩ := exec_answers i (advance s)
    rw [step_of_decode s i u hd hu]

/-- Reset with the word `op` at 0x200. -/
def at200 (op : Word) : State := State.reset.placeWord op

/-- Sets registers from pairs. -/
def withV (l : List (Reg × Byte)) (s : State) : State := l.foldl (fun s p => s.setReg p.1 p.2) s

/-- Fixes the inputs of the next step. -/
def withKeys (keys : BitVec 16) (s : State) : State := { s with inputs := [⟨keys, 0⟩] }

/-- Lights cells `(col, row)`. -/
def lit (cells : List (Nat × Nat)) : Display := cells.foldl (fun d p => d.toggle p.2 p.1) Display.clear

/-! ## WellFormed: an ill-formed term for each check -/

/-- 0x0000 decodes as CLS but is not its canonical word (D11). -/
theorem test_canonical_refuses_0000 : canonicalWord 0x0000#16 = false := by decide
/-- 0x5125 and 0x9121 (unexamined low nibble), 0xE20E (unexamined middle nibble): T5, T7. -/
theorem test_canonical_refuses_dont_care :
    canonicalWord 0x5125#16 = false ∧ canonicalWord 0x9121#16 = false ∧ canonicalWord 0xE20E#16 = false := by decide
/-- Illegal words are not canonical: T9. -/
theorem test_canonical_refuses_illegal :
    canonicalWord 0x8128#16 = false ∧ canonicalWord 0xF0FF#16 = false ∧ canonicalWord 0xE19F#16 = false := by decide
theorem test_canonical_accepts : canonicalWord 0x00EE#16 = true ∧ canonicalWord 0x8124#16 = true := by decide
/-- 3585 bytes do not fit, 3584 do: S5. -/
theorem test_program_too_long : programFits (List.replicate 3585 0xAB) = false := by
  unfold programFits
  rw [List.length_replicate]
  decide
theorem test_program_fits : programFits (List.replicate 3584 0xAB) = true := by
  unfold programFits
  rw [List.length_replicate]
  decide

/-! ## Decode: each constructor by a word written out from R75's "encoding" column -/

/-- Group 0x0, NNN and skip forms: `0000 ---- ---- 0000`, `0001 nnnn nnnn nnnn`, `0011 xxxx nnnn nnnn`, .. -/
theorem test_decode_flow :
    [0b0000000011100000#16, 0b0000000011101110#16, 0b0001001000000100#16, 0b0010001000010000#16, 0b0011000000000000#16,
      0b0100101000000111#16, 0b0101000100100000#16, 0b1001000100100000#16, 0b1011001100000000#16].map
        (fun op => (decodeWord op).toOption) =
    [some .cls, some .ret, some (.jp 0x204#12), some (.call 0x210#12), some (.seByte 0 0#8), some (.sneByte 10 7#8),
      some (.seReg 1 2), some (.sneReg 1 2), some (.jpV0 0x300#12)] := by decide
/-- Groups 0x6, 0x7, 0x8 and 0xC: `1000 xxxx yyyy 0100` and its neighbours. -/
theorem test_decode_alu :
    [0b0110000011110110#16, 0b0111001100001010#16, 0b1000111011110000#16, 0b1000000100100001#16, 0b1000000100100010#16,
      0b1000000100100011#16, 0b1000000100100100#16, 0b1000000100100101#16, 0b1000000100000110#16, 0b1000000100100111#16,
      0b1000000100001110#16, 0b1100000100001111#16].map (fun op => (decodeWord op).toOption) =
    [some (.ldByte 0 0xF6#8), some (.addByte 3 10#8), some (.ldReg 14 15), some (.orReg 1 2), some (.andReg 1 2),
      some (.xorReg 1 2), some (.addReg 1 2), some (.subReg 1 2), some (.shr 1 0), some (.subnReg 1 2), some (.shl 1 0),
      some (.rnd 1 0x0F#8)] := by decide
/-- Groups 0xA, 0xD, 0xE, 0xF: `1111 xxxx 0011 0011` and its neighbours. -/
theorem test_decode_memory_display_keypad :
    [0b1010001100000000#16, 0b1101000000010101#16, 0b1110001010011110#16, 0b1110001010100001#16, 0b1111001000000111#16,
      0b1111000000010101#16, 0b1111001100011000#16, 0b1111000100001010#16, 0b1111001000011110#16, 0b1111000000101001#16,
      0b1111000000110011#16, 0b1111001001010101#16, 0b1111001001100101#16].map (fun op => (decodeWord op).toOption) =
    [some (.ldI 0x300#12), some (.drw 0 1 5#4), some (.skp 2), some (.sknp 2), some (.ldVxDt 2), some (.ldDtVx 0),
      some (.ldStVx 3), some (.ldVxK 1), some (.addIVx 2), some (.ldFVx 0), some (.ldBVx 0), some (.ldMemVx 2),
      some (.ldVxMem 2)] := by decide
/-- T8 and T9: ten illegal words. -/
theorem test_decode_illegal :
    [0x0001#16, 0x00E1#16, 0x8128#16, 0x812F#16, 0xE000#16, 0xE19F#16, 0xF000#16, 0xF0FF#16, 0xF154#16, 0xF090#16].map
      (fun op => (decodeWord op).toOption) = List.replicate 10 none := by decide
/-- The encoder on the same words. -/
theorem test_encode :
    [Instr.cls, .call 0x210#12, .addReg 1 2, .drw 0 1 5#4, .sknp 2, .ldVxMem 2].map encode =
      [0x00E0#16, 0x2210#16, 0x8124#16, 0xD015#16, 0xE2A1#16, 0xF265#16] := by decide
theorem test_decode_table_word : decodeTableWord 16 0x8124 = some (.addReg 1 2) ∧ decodeTableWord 16 0x0001 = none := by
  decide
/-- The first word of every opcode-table row runs as the first instruction after reset: the step answers a next state. -/
theorem test_every_row_steps :
    opcodeMap.all (fun r =>
      match step (State.reset.withFetchWord 16 r.code.toNat) with
      | .next _ => true
      | _ => false) = true := by decide

/-! ## Fetch, advance, decode (95_test_vectors.md 2.1) -/

/-- T1: big-endian fetch. -/
theorem test_T1_big_endian :
    (after { State.reset with mem := State.reset.mem.writeBytes 0x200#12 [0x12, 0x34] }).pc = 0x234#12 := by decide
/-- T2: the second byte of the fetch at 0xFFF is byte 0x000. -/
theorem test_T2_fetch_wraps :
    let t := after { State.reset with pc := 0xFFF#12, mem := State.reset.mem.write 0xFFF#12 0x60 }
    t.reg 0 = 0xF0 ∧ t.pc = 0x001#12 := by decide
/-- T8: UnimplementedOpcode leaves pc advanced and DT as it was. -/
theorem test_T8_unimplemented :
    let t := after { at200 0x0001#16 with dt := 3 }
    t.result = .fault .unimplementedOpcode ∧ t.pc = 0x202#12 ∧ t.dt = 3 := by decide
/-- R98, R160: the numeric codes. -/
theorem test_result_codes :
    [StepResult.ok, .waitingForKey, .fault .unimplementedOpcode, .fault .stackOverflow, .fault .stackUnderflow,
      .fault .programTooLarge].map StepResult.code = [0, 1, 2, 3, 4, 5] := by decide

/-! ## Control transfer (2.2) -/

theorem test_T11_jp : (after (at200 0x1ABC#16)).pc = 0xABC#12 := by decide
/-- T12, and T6: every `0..E` is RET. -/
theorem test_T6_T12_ret :
    (let t := after { at200 0x00EE#16 with stack := [0x30A#12, 0x206#12] }
     t.pc = 0x30A#12 ∧ t.stack = [0x206#12]) ∧
    let t := after { at200 0x0AAE#16 with stack := [0x123#12] }
    t.pc = 0x123#12 ∧ t.stack = [] := by decide
theorem test_T13_ret_empty :
    let t := after { at200 0x00EE#16 with dt := 5 }
    t.result = .fault .stackUnderflow ∧ t.pc = 0x202#12 ∧ t.dt = 5 ∧ t.stack = [] := by decide
theorem test_T14_call_wraps :
    let t := after (({ State.reset with pc := 0xFFE#12 }).placeWord 0x2ABC#16)
    t.stack = [0x000#12] ∧ t.pc = 0xABC#12 := by decide
theorem test_T25_call_full :
    let t := after { at200 0x2300#16 with stack := List.replicate 16 0x202#12 }
    t.result = .fault .stackOverflow ∧ t.pc = 0x202#12 ∧ t.stack.length = 16 := by decide
theorem test_T15_T16_se_byte :
    (after (withV [(3, 0x42)] (at200 0x3342#16))).pc = 0x204#12 ∧
      (after (withV [(3, 0x43)] (at200 0x3342#16))).pc = 0x202#12 := by decide
theorem test_T17_T18_sne_byte :
    (after (withV [(3, 0x42)] (at200 0x4342#16))).pc = 0x202#12 ∧
      (after (withV [(3, 0x43)] (at200 0x4342#16))).pc = 0x204#12 := by decide
/-- R106's example with a word whose low nibble is not examined (T5). -/
theorem test_T5_se_reg :
    (after (withV [(1, 9), (2, 9)] (at200 0x5125#16))).pc = 0x204#12 ∧
      (after (withV [(1, 9), (2, 8)] (at200 0x5120#16))).pc = 0x202#12 := by decide
/-- R107's example. -/
theorem test_sne_reg :
    (after (withV [(1, 9), (2, 8)] (at200 0x9120#16))).pc = 0x204#12 ∧
      (after (withV [(1, 9), (2, 9)] (at200 0x9120#16))).pc = 0x202#12 := by decide
theorem test_T22_skip_wraps : (after (({ State.reset with pc := 0xFFE#12 }).placeWord 0x3000#16)).pc = 0x002#12 := by decide
theorem test_T23_T24_jp_v0 :
    (after (withV [(0, 0xFF)] (at200 0xB2FF#16))).pc = 0x3FE#12 ∧
      (after (withV [(0, 2)] (at200 0xBFFF#16))).pc = 0x001#12 := by decide

/-! ## ALU (2.3) -/

theorem test_T30_ld_byte_vf : (after (at200 0x6FAB#16)).reg 15 = 0xAB := by decide
theorem test_S1_add_byte :
    let t := after (withV [(3, 250), (15, 1)] (at200 0x730A#16))
    t.reg 3 = 4 ∧ t.reg 15 = 1 := by decide
theorem test_T36_ld_reg : (after (withV [(2, 0x77)] (at200 0x8120#16))).reg 1 = 0x77 := by decide
theorem test_T33_or :
    let t := after (withV [(1, 0x0F), (2, 0xF0), (15, 1)] (at200 0x8121#16))
    t.reg 1 = 0xFF ∧ t.reg 15 = 1 := by decide
theorem test_T34_and : (after (withV [(1, 0x3C), (2, 0x0F)] (at200 0x8122#16))).reg 1 = 0x0C := by decide
theorem test_xor : (after (withV [(1, 0xFF), (2, 0x0F)] (at200 0x8123#16))).reg 1 = 0xF0 := by decide
theorem test_S2_add_carry :
    let t := after (withV [(1, 200), (2, 100)] (at200 0x8124#16))
    t.reg 1 = 44 ∧ t.reg 15 = 1 := by decide
theorem test_T41_add_flag_last : (after (withV [(15, 200), (1, 100)] (at200 0x8F14#16))).reg 15 = 1 := by decide
theorem test_S3_sub_borrow :
    let t := after (withV [(1, 5), (2, 10)] (at200 0x8125#16))
    t.reg 1 = 251 ∧ t.reg 15 = 0 := by decide
theorem test_T43_sub_equal :
    let t := after (withV [(1, 7), (2, 7)] (at200 0x8125#16))
    t.reg 1 = 0 ∧ t.reg 15 = 1 := by decide
theorem test_T51_shr_in_place :
    let t := after (withV [(1, 0xFF), (2, 0x10)] (at200 0x8126#16))
    t.reg 1 = 0x7F ∧ t.reg 15 = 1 ∧ t.reg 2 = 0x10 := by decide
theorem test_T48_subn :
    let t := after (withV [(1, 10), (2, 5)] (at200 0x8127#16))
    t.reg 1 = 0xFB ∧ t.reg 15 = 0 := by decide
theorem test_T56_shl_in_place :
    let t := after (withV [(1, 0x80), (2, 0x33)] (at200 0x812E#16))
    t.reg 1 = 0 ∧ t.reg 15 = 1 ∧ t.reg 2 = 0x33 := by decide
theorem test_T59a_shl_flag_last : (after (withV [(15, 0x41)] (at200 0x8F0E#16))).reg 15 = 0 := by decide
theorem test_T59b_rnd : (after { at200 0xC10F#16 with inputs := [⟨0, 0xA7⟩] }).reg 1 = 0x07 := by decide

/-! ## Display (2.4) -/

/-- T60 (font digit 0, its fourteen cells, VF 0), T67 (the coordinate VF is read before the flag is written), T68 (one
cell erased, one lit, VF 1). -/
theorem test_T60_T67_T68_draw :
    (let t := after (at200 0xD015#16)
     t.disp = lit [(0,0), (1,0), (2,0), (3,0), (0,1), (3,1), (0,2), (3,2), (0,3), (3,3), (0,4), (1,4), (2,4), (3,4)] ∧
      t.reg 15 = 0) ∧
    (let t := after (withV [(15, 8), (1, 2)] (at200 0xDF11#16))
     t.disp = lit [(8,2), (9,2), (10,2), (11,2)] ∧ t.reg 15 = 0) ∧
    let t := after { at200 0xD001#16 with
      i := 0x300#12, mem := (at200 0xD001#16).mem.write 0x300#12 0x60, disp := lit [(0,0), (1,0)] }
    t.disp = lit [(0,0), (2,0)] ∧ t.reg 15 = 1 := by decide
/-- T62 and T63 (clipped at the right edge and at the bottom), T64 (the start column is not reduced; VF is written all
the same). -/
theorem test_T62_T63_T64_clip :
    (after (withV [(0, 62)] (at200 0xD015#16))).disp =
      lit [(62,0), (63,0), (62,1), (62,2), (62,3), (62,4), (63,4)] ∧
    (after (withV [(1, 30)] (at200 0xD015#16))).disp = lit [(0,30), (1,30), (2,30), (3,30), (0,31), (3,31)] ∧
    let t := after (withV [(0, 64), (15, 1)] (at200 0xD015#16))
    t.disp = Display.clear ∧ t.reg 15 = 0 := by decide
/-- T73: CLS leaves VF alone. -/
theorem test_T73_cls :
    let t := after (withV [(15, 1)] { at200 0x00E0#16 with disp := lit [(0,0), (63,31)] })
    t.disp = Display.clear ∧ t.reg 15 = 1 := by decide

/-! ## Index register and memory (2.5) -/

theorem test_T80_ld_i : (after (at200 0xAFFF#16)).i = 0xFFF#12 := by decide
theorem test_T82_add_i_wraps :
    let t := after (withV [(2, 0xFF), (15, 1)] { at200 0xF21E#16 with i := 0xF01#12 })
    t.i = 0x000#12 ∧ t.reg 15 = 1 := by decide
theorem test_T83_T85_ld_f :
    (after (withV [(0, 0x0F)] (at200 0xF029#16))).i = 0x04B#12 ∧
      (after (withV [(0, 0xFF)] (at200 0xF029#16))).i = 0x4FB#12 := by decide
theorem test_S4_ld_b :
    let t := after (withV [(0, 246)] { at200 0xF033#16 with i := 0x300#12 })
    [0x300#12, 0x301#12, 0x302#12].map t.mem.read = [2, 4, 6] := by decide
theorem test_T90_ld_b_wraps :
    let t := after (withV [(0, 123)] { at200 0xF033#16 with i := 0xFFE#12 })
    [0xFFE#12, 0xFFF#12, 0x000#12].map t.mem.read = [1, 2, 3] := by decide
/-- R134's example, and the register above Vx is not stored. -/
theorem test_store_regs :
    let t := after (withV [(0, 2), (1, 4), (2, 6), (3, 8)] { at200 0xF255#16 with i := 0x300#12 })
    [0x300#12, 0x301#12, 0x302#12, 0x303#12].map t.mem.read = [2, 4, 6, 0] ∧ t.i = 0x300#12 := by decide
theorem test_T92_load_regs :
    let t := after (withV [(5, 0x77)] (at200 0xF465#16))
    [0, 1, 2, 3, 4, 5].map t.reg = [0xF0, 0x90, 0x90, 0x90, 0xF0, 0x77] ∧ t.i = 0 := by decide
theorem test_T94_load_regs_wraps :
    let t := after { at200 0xF165#16 with i := 0xFFF#12, mem := (at200 0xF165#16).mem.write 0xFFF#12 0x12 }
    t.reg 0 = 0x12 ∧ t.reg 1 = 0xF0 := by decide

/-! ## Keypad and timers (2.6) -/

theorem test_T100_T103_skp :
    (after (withKeys 0x0020 (withV [(2, 5)] (at200 0xE29E#16)))).pc = 0x204#12 ∧
      (after (withKeys 0xFFFF (withV [(2, 0x15)] (at200 0xE29E#16)))).pc = 0x202#12 := by decide
theorem test_T104_T106_sknp :
    (after (withKeys 0x0020 (withV [(2, 5)] (at200 0xE2A1#16)))).pc = 0x202#12 ∧
      (after (withKeys 0xFFFF (withV [(2, 0x1F)] (at200 0xE2A1#16)))).pc = 0x204#12 := by decide
/-- Where the clauses meet: key 15 is a key, 16 is not (R156). -/
theorem test_key_15_16 :
    pressed 0xFFFF#16 15 = true ∧ pressed 0xFFFF#16 16 = false := by decide
theorem test_T112_ld_vx_dt :
    let t := after { at200 0xF207#16 with dt := 6 }
    t.reg 2 = 6 ∧ t.dt = 5 := by decide
theorem test_T115_T116_ld_dt :
    (after (withV [(0, 10)] (at200 0xF015#16))).dt = 9 ∧ (after (withV [(0, 1)] (at200 0xF015#16))).dt = 0 := by decide
theorem test_T119_ld_st : (after (withV [(3, 3)] (at200 0xF318#16))).st = 2 := by decide
theorem test_T107_key_wait_blocks :
    let t := after (withKeys 0 { at200 0xF10A#16 with dt := 3, st := 1 })
    t.pc = 0x200#12 ∧ t.result = .waitingForKey ∧ t.dt = 2 ∧ t.st = 0 := by decide
theorem test_T109_key_wait_lowest :
    let t := after (withKeys 0x0101 (withV [(1, 9)] (at200 0xF10A#16)))
    t.reg 1 = 0 ∧ t.pc = 0x202#12 ∧ t.inputs = [] := by decide
theorem test_T121_T122_decay :
    (after (at200 0x6000#16)).dt = 0 ∧ (after { at200 0x6000#16 with dt := 1, st := 255 }).st = 254 := by decide

/-! ## Load and reset (2.7) -/

/-- T130: everything of the old state is gone. -/
theorem test_T130_load :
    (match load [0x12, 0x00] { State.reset with i := 0x123#12, dt := 9, mem := State.reset.mem.write 0x800#12 0x55 } with
      | .next t => decide (t.i = 0 ∧ t.dt = 0 ∧ t.pc = 0x200#12 ∧ t.mem.read 0x200#12 = 0x12 ∧ t.mem.read 0x800#12 = 0)
      | _ => false) = true := by decide
/-- S9: the two sprites the source gives. -/
theorem test_S9_font :
    (List.range 10).map (fun a => State.reset.mem.read (BitVec.ofNat 12 a)) =
      [0xF0, 0x90, 0x90, 0x90, 0xF0, 0x20, 0x60, 0x20, 0x20, 0x70] := by decide
/-- A write of the reset contents lists nothing; other writes are listed in rising order. -/
theorem test_memory_canonical :
    ((Memory.write [] 0x300#12 7).write 0x300#12 0) = [] ∧ ((Memory.write [] 0x300#12 7).write 0x100#12 1) =
      [(0x100, 1), (0x300, 7)] ∧ Memory.wf [(0x300, 7), (0x100, 1)] = false ∧ Memory.wf [(0, 0xF0)] = false := by decide

/-! ## Witnesses: the hypotheses of every obligation are met by a concrete case -/

/-- Every `DecodesAs mask code` has a word: the code itself. Likewise both hypotheses of OpcodeMapRowsDisjoint and of
DecodeFollowsOpcodeMap's second clause. -/
theorem witness_opcode_rows : ∀ r ∈ opcodeMap, r.code &&& r.mask = r.code := by decide
theorem witness_DecodeFollowsOpcodeMap : decodeWord 0x8124#16 = .ok (.addReg 1 2) := by decide
theorem witness_EncodeDecodeCanonicalWord :
    canonicalWord 0xF265#16 = true ∧ decodeWord 0xF265#16 = .ok (.ldVxMem 2) := by decide
theorem witness_UnexaminedBitsIgnored :
    (fieldGroup 0x00E0#16 = 0x0#4 ∧ (0x00E0#16 &&& 0xF00F#16 : Word) = 0x0000#16 &&& 0xF00F#16) ∧
    (fieldGroup 0x5120#16 = 0x5#4 ∧ (0x5120#16 &&& 0xFFF0#16 : Word) = 0x5125#16 &&& 0xFFF0#16) ∧
    (fieldGroup 0x9120#16 = 0x9#4 ∧ (0x9120#16 &&& 0xFFF0#16 : Word) = 0x912F#16 &&& 0xFFF0#16) ∧
    (fieldGroup 0xE29E#16 = 0xE#4 ∧ (0xE29E#16 &&& 0xFF0F#16 : Word) = 0xE20E#16 &&& 0xFF0F#16) := by decide
/-- The store at 0xFF8 wraps; the registers are changed before the load. -/
theorem witness_StoreLoadRoundTrip :
    ∃ s s1 s2 : State, exec (.ldMemVx 15) s = .next s1 ∧ s2.i = s1.i ∧ s2.reg 0 ≠ s.reg 0 ∧
      ∀ k : Nat, k ≤ (15 : Reg).val → s2.mem.read (dataAddr s1 k) = s1.mem.read (dataAddr s1 k) := by
  let s : State := { State.reset with i := 0xFF8#12 }
  obtain ⟨s1, h⟩ := exec_answers (.ldMemVx 15) s
  refine ⟨s, s1, s1.setReg 0 7, h, rfl, ?_, fun _ _ => rfl⟩
  rw [State.reg_setReg, if_pos rfl]
  decide
theorem witness_StepRunsDecoded :
    (decodeWord (fetch (at200 0x1ABC#16)) = .ok (.jp 0xABC#12) ∧
      ∃ u, exec (.jp 0xABC#12) (advance (at200 0x1ABC#16)) = .next u) ∧
    decodeWord (fetch (at200 0x0001#16)) = .error .unimplementedOpcode := ⟨⟨by decide, _, rfl⟩, by decide⟩
/-- A CALL at depth 15, and what it leaves. -/
theorem witness_StepKeepsInvariant : ∃ s t : State, s.Inv ∧ step s = .next t ∧ t.stack.length = 16 :=
  ⟨{ at200 0x2ABC#16 with stack := List.replicate 15 0x202#12 }, _, ⟨by decide, by decide⟩, step_after _, by decide⟩
/-- StepResultTable at depth 16, at depth 0, at a key-wait and at an illegal word. -/
theorem witness_StepResultTable :
    (∃ s t : State, s.Inv ∧ step s = .next t ∧ t.result = .fault .stackOverflow ∧ s.stack.length = 16) ∧
    (∃ s t : State, s.Inv ∧ step s = .next t ∧ t.result = .fault .stackUnderflow) ∧
    (∃ s t : State, s.Inv ∧ step s = .next t ∧ t.result = .waitingForKey) ∧
    ∃ s t : State, s.Inv ∧ step s = .next t ∧ t.result = .fault .unimplementedOpcode :=
  ⟨⟨{ at200 0x2300#16 with stack := List.replicate 16 0x202#12 }, _, ⟨by decide, by decide⟩, step_after _, by decide,
      by decide⟩,
    ⟨at200 0x00EE#16, _, ⟨by decide, by decide⟩, step_after _, by decide⟩,
    ⟨withKeys 0 (at200 0xF10A#16), _, ⟨by decide, by decide⟩, step_after _, by decide⟩,
    ⟨at200 0x0001#16, _, ⟨by decide, by decide⟩, step_after _, by decide⟩⟩
theorem witness_RaisingStepLeavesOnlyPcAdvanced :
    ∃ s t : State, step s = .next t ∧ t.result = .fault .stackUnderflow := ⟨at200 0x00EE#16, _, step_after _, by decide⟩
theorem witness_TimersDecayEveryCompletedStep :
    (∃ s t : State, step s = .next t ∧ t.result.isFault = false ∧ decodeWord (fetch s) = .ok (.ldDtVx 0)) ∧
    (∃ s t : State, step s = .next t ∧ t.result.isFault = false ∧ decodeWord (fetch s) = .ok (.ldStVx 3)) ∧
    ∃ s t : State, step s = .next t ∧ t.result.isFault = false ∧ decodeWord (fetch s) = .ok (.jp 0xABC#12) :=
  ⟨⟨at200 0xF015#16, _, step_after _, by decide, by decide⟩, ⟨at200 0xF318#16, _, step_after _, by decide, by decide⟩,
    ⟨at200 0x1ABC#16, _, step_after _, by decide, by decide⟩⟩
theorem witness_ResetMeetsInvariant : ∃ t, load [0x12, 0x00] State.reset = .next t := ⟨_, rfl⟩
theorem witness_StepDependsOnCoreAndInputs :
    ∃ s s' : State, SameCore s s' ∧ SameInputs s s' ∧ s'.result ≠ s.result :=
  ⟨State.reset, State.reset.setResult (.fault .stackOverflow), ⟨rfl, rfl, rfl, rfl, rfl, rfl, rfl, rfl⟩, ⟨rfl, rfl⟩, by decide⟩
theorem witness_InputsReachOnlyTheirInstructions :
    ∃ s s' : State, SameCore s s' ∧ s.keys ≠ s'.keys ∧ ∀ i, decodeWord (fetch s) = .ok i → ¬ UsesInput i := by
  refine ⟨withKeys 1 (at200 0x1ABC#16), withKeys 2 (at200 0x1ABC#16), ⟨rfl, rfl, rfl, rfl, rfl, rfl, rfl, rfl⟩, by decide, ?_⟩
  intro i hi
  have hd : decodeWord (fetch (withKeys 1 (at200 0x1ABC#16))) = .ok (.jp 0xABC#12) := by decide
  rw [hd] at hi
  injection hi with hi
  subst hi
  simp [UsesInput]
theorem witness_VfWriters :
    (∃ s t : State, exec (.ldByte 15 7#8) s = .next t ∧ t.reg 15 ≠ s.reg 15) ∧
    WritesFlag (.addReg 1 2) ∧ ∃ s t : State, exec (.addReg 1 2) s = .next t :=
  ⟨⟨State.reset, _, rfl, by decide⟩, .inl ⟨1, 2, rfl⟩, State.reset, _, rfl⟩
theorem witness_DisplayWriters : ∃ s t : State, step s = .next t ∧ t.disp ≠ s.disp :=
  ⟨at200 0xD015#16, _, step_after _, by decide⟩
theorem witness_WritersOfStackMemoryIndexTimers :
    (∃ s t : State, exec (.call 0xABC#12) s = .next t ∧ t.stack ≠ s.stack) ∧
    (∃ s t : State, exec (.ldBVx 0) s = .next t ∧ ∃ a : Addr, t.mem.read a ≠ s.mem.read a) ∧
    (∃ s t : State, exec (.ldI 0xABC#12) s = .next t ∧ t.i ≠ s.i) ∧
    (∃ s t : State, exec (.ldDtVx 0) s = .next t ∧ t.dt ≠ s.dt) ∧
    ∃ s t : State, exec (.ldStVx 0) s = .next t ∧ t.st ≠ s.st :=
  ⟨⟨State.reset, _, rfl, by decide⟩, ⟨State.reset, _, rfl, 0x000#12, by decide⟩, ⟨State.reset, _, rfl, by decide⟩,
   ⟨State.reset.setReg 0 1, _, rfl, by decide⟩, ⟨State.reset.setReg 0 1, _, rfl, by decide⟩⟩
/-- The destination is not VF: the result clause of the flag writers applies. -/
theorem witness_result_register : (1 : Reg) ≠ 15 := by decide
theorem witness_RandomByteMasked :
    (∃ (s : State) (inp : StepInput) (rest : List StepInput), s.inputs = inp :: rest) ∧ (0x0F#8).getLsbD 7 = false :=
  ⟨⟨withKeys 0 State.reset, _, _, rfl⟩, by decide⟩
/-- Depths 15 (completes) and 16 (overflows), and the step of a CALL on a full stack. -/
theorem witness_CallPushesOrOverflows :
    (List.replicate 15 0x202#12).length < 16 ∧ (List.replicate 16 0x202#12).length = 16 ∧
    ∃ s : State, s.stack.length = 16 ∧ decodeWord (fetch s) = .ok (.call 0x300#12) :=
  ⟨by decide, by decide, { at200 0x2300#16 with stack := List.replicate 16 0x202#12 }, rfl, by decide⟩
theorem witness_ReturnPopsOrUnderflows :
    (∃ s : State, s.stack = [0x206#12]) ∧ State.reset.stack.length = 0 ∧
    ∃ s : State, s.stack.length = 0 ∧ decodeWord (fetch s) = .ok .ret :=
  ⟨⟨{ State.reset with stack := [0x206#12] }, rfl⟩, rfl, at200 0x00EE#16, rfl, by decide⟩
/-- An address outside the three stored bytes, next to the last of them, at a base that wraps. -/
theorem witness_StoreDecimal :
    ∃ (s : State) (a : Addr), ∀ k, k < 3 → a ≠ dataAddr s k :=
  ⟨{ State.reset with i := 0xFFE#12 }, 0x001#12, by decide⟩
/-- An address outside the sixteen stored bytes, and registers up to and above Vx. -/
theorem witness_StoreRegisters :
    (∃ (s : State) (a : Addr), ∀ k, k ≤ (15 : Reg).val → a ≠ dataAddr s k) ∧ (2 : Reg) ≤ 2 :=
  ⟨⟨{ State.reset with i := 0xFF8#12 }, 0x008#12, by decide⟩, by decide⟩
theorem witness_LoadRegisters : (2 : Reg) ≤ 2 ∧ (3 : Reg) ∉ (List.finRange 16).filter (fun r => decide (r ≤ (2 : Reg))) := by
  decide
/-- With `0xF029` itself in memory at `pc`, and the last digit. -/
theorem witness_FontSpriteOfDigit :
    ∃ s : State, decodeWord (fetch s) = .ok (.ldFVx 0) ∧
      (∀ a : Addr, a.toNat < 0x050 → s.mem.read a = State.reset.mem.read a) ∧
      digitRows[(s.reg 0).toNat]? = some [0xF0, 0x80, 0xF0, 0x80, 0x80] :=
  ⟨(at200 0xF029#16).setReg 0 15, by decide, by
    intro a ha
    have h0 : a ≠ 0x200#12 := by rintro rfl; exact absurd ha (by decide)
    have h1 : a ≠ 0x200#12 + 1 := by rintro rfl; exact absurd ha (by decide)
    change ((State.reset.mem.write 0x200#12 0xF0).write (0x200#12 + 1) 0x29).read a = _
    rw [Memory.read_write, if_neg h1, Memory.read_write, if_neg h0], by decide⟩
/-- A pixel on column 63 and row 31, a cell no pixel covers, and a pixel dropped on column 64 (n = 1). -/
theorem witness_DrawSprite :
    (∃ (s : State) (r c : Nat), r < (1#4).toNat ∧ c < 8 ∧ (s.reg 0).toNat + c ≤ 63 ∧ (s.reg 1).toNat + r ≤ 31) ∧
    ∃ (s : State) (row col : Nat), ∀ r c, r < (1#4).toNat → c < 8 → ¬ (row = (s.reg 1).toNat + r ∧ col = (s.reg 0).toNat + c) :=
  ⟨⟨withV [(0, 63), (1, 31)] State.reset, 0, 0, by decide, by decide, by decide, by decide⟩,
   ⟨State.reset, 5, 0, fun r c hr _ h => by
      have h1 : (State.reset.reg 1).toNat = 0 := by decide
      have h2 : (1#4).toNat = 1 := rfl
      omega⟩⟩
theorem witness_DrawTwiceRestores :
    ∃ s s1 s2 : State, (0 : Reg) ≠ 15 ∧ (1 : Reg) ≠ 15 ∧ exec (.drw 0 1 5#4) s = .next s1 ∧
      exec (.drw 0 1 5#4) s1 = .next s2 := ⟨State.reset, _, _, by decide, by decide, rfl, rfl⟩
theorem witness_TimerCopies :
    decodeWord (fetch (at200 0xF207#16)) = .ok (.ldVxDt 2) ∧ decodeWord (fetch (at200 0xF015#16)) = .ok (.ldDtVx 0) ∧
      decodeWord (fetch (at200 0xF318#16)) = .ok (.ldStVx 3) := by decide
theorem witness_KeyWaitTakesLowestKey : (withKeys 0x8000 State.reset).keys ≠ 0 := by decide
theorem witness_KeyWaitBlocks :
    (withKeys 0 (at200 0xF10A#16)).keys = 0 ∧ decodeWord (fetch (withKeys 0 (at200 0xF10A#16))) = .ok (.ldVxK 1) := by decide
theorem witness_ResetState : 0x050 ≤ (0x050#12).toNat := by decide
/-- An image of any length up to a full one: its last byte, at 0xFFF when it is full. -/
theorem witness_LoadPlacesProgram (n : Nat) (hn : n + 1 ≤ 3584) :
    (List.replicate (n + 1) (0xAB : Byte)).length ≤ 3584 ∧ (List.replicate (n + 1) (0xAB : Byte))[n]? = some 0xAB := by
  refine ⟨?_, ?_⟩
  · rw [List.length_replicate]; exact hn
  · rw [List.getElem?_replicate, if_pos (Nat.lt_succ_self n)]
/-- The addresses 0x1FF, below any image, and 0xFFF, above one of 3583 bytes. -/
theorem witness_LoadPlacesProgram_outside :
    (0x1FF#12).toNat < 0x200 ∧ 0x200 + (List.replicate 3583 (0xAB : Byte)).length ≤ (0xFFF#12).toNat := by
  rw [List.length_replicate]; decide
theorem witness_ZeroWordClearsAndGoesOn :
    State.reset.mem.read State.reset.pc = 0 ∧ State.reset.mem.read (State.reset.pc + 1) = 0 := by decide
/-- Also the second clause of JumpAbsolute. -/
theorem witness_SelfJumpIdles : decodeWord (fetch (at200 0x1200#16)) = .ok (.jp (at200 0x1200#16).pc) := by decide

end Sys2Proof.Tests
end

/-! PROOFS of the family 10_state.md: what an instruction can do to the state, said once (`Effect`), and the statements
about the invariant, the writers of each field, the step's inputs, reset and load that follow from it. -/

namespace Sys2Proof.Machine

/-! ## What an instruction can do -/

/-- The updates part 4 of the step can make: `Effect s i t` says that `t` is `s` after an update that instruction `i` may
make. Which instructions may make an update is part of its constructor, so that the writers of a field are read off by
cases. -/
inductive Effect (s : State) (i : Instr) : State → Prop where
  /-- the register the `x` field names -/
  | reg (x : Reg) (b : Byte) (hx : xField i = some x) : Effect s i (s.setReg x b)
  /-- a result and then the flag -/
  | resultFlag (x : Reg) (b : Byte) (f : Bool) (hi : WritesFlag i) : Effect s i (writeResultFlag x b f s)
  /-- the block load -/
  | loadRegs (x : Reg) (hi : i = .ldVxMem x) :
      Effect s i (s.setRegs (loadRegs s.mem (dataAddr s 0) (x.val + 1) s.v))
  /-- the display cleared -/
  | clear (hi : i = .cls) : Effect s i (s.setDisp Display.clear)
  /-- a sprite and then the flag -/
  | draw (x y : Reg) (n : BitVec 4) (hi : i = .drw x y n) :
      Effect s i ((s.setDisp (drawn x y n s).1).setFlag (drawn x y n s).2)
  /-- the program counter: jumps and skips -/
  | pc (a : Addr) : Effect s i (s.setPc a)
  /-- the rewind of a key wait -/
  | wait (x : Reg) (hi : i = .ldVxK x) : Effect s i ((s.setPc (s.pc - 2)).setResult .waitingForKey)
  /-- an error kind raised, nothing written -/
  | raise (k : Fault) : Effect s i (s.raise k)
  /-- a push below the full depth -/
  | push (nnn : Addr) (hi : i = .call nnn) (hs : s.stack.length < Config.stackDepth) :
      Effect s i ((s.setStack (s.pc :: s.stack)).setPc nnn)
  /-- a pop -/
  | pop (a : Addr) (rest : List Addr) (hi : i = .ret) (hs : s.stack = a :: rest) :
      Effect s i ((s.setStack rest).setPc a)
  /-- the index register -/
  | index (a : Addr) (hi : (∃ nnn, i = .ldI nnn) ∨ (∃ x, i = .addIVx x) ∨ ∃ x, i = .ldFVx x) : Effect s i (s.setI a)
  /-- a block of bytes stored -/
  | store (a : Addr) (bs : List Byte) (hi : (∃ x, i = .ldBVx x) ∨ ∃ x, i = .ldMemVx x) :
      Effect s i (s.setMem (s.mem.writeBytes a bs))
  /-- the delay timer -/
  | delay (x : Reg) (hi : i = .ldDtVx x) : Effect s i (s.setDt (s.reg x))
  /-- the sound timer -/
  | sound (x : Reg) (hi : i = .ldStVx x) : Effect s i (s.setSt (s.reg x))

theorem execRet_effect (s : State) : ∃ t, exec .ret s = .next t ∧ Effect s .ret t := by
  cases hs : s.stack with
  | nil => exact ⟨s.raise .stackUnderflow, by simp [exec, execRet, hs], .raise _⟩
  | cons a rest => exact ⟨(s.setStack rest).setPc a, by simp [exec, execRet, hs], .pop a rest rfl hs⟩

theorem execCall_effect (nnn : Addr) (s : State) : ∃ t, exec (.call nnn) s = .next t ∧ Effect s (.call nnn) t := by
  by_cases hs : Config.stackDepth ≤ s.stack.length
  · exact ⟨s.raise .stackOverflow, by simp [exec, execCall, hs], .raise _⟩
  · exact ⟨(s.setStack (s.pc :: s.stack)).setPc nnn, by simp [exec, execCall, hs], .push nnn rfl (Nat.lt_of_not_le hs)⟩

theorem execLdVxK_effect (x : Reg) (s : State) : ∃ t, exec (.ldVxK x) s = .next t ∧ Effect s (.ldVxK x) t := by
  refine ⟨takeKey x (firstKey s.keys) s, rfl, ?_⟩
  cases firstKey s.keys with
  | none => exact .wait x rfl
  | some k => exact .reg x (BitVec.ofNat 8 k) rfl

/-- Every instruction answers, with one of the effects. -/
theorem exec_effect (s : State) : ∀ i : Instr, ∃ t, exec i s = .next t ∧ Effect s i t
  | .cls => ⟨_, rfl, .clear rfl⟩
  | .ret => execRet_effect s
  | .jp _ => ⟨_, rfl, .pc _⟩
  | .call nnn => execCall_effect nnn s
  | .seByte _ _ => ⟨_, rfl, .pc _⟩
  | .sneByte _ _ => ⟨_, rfl, .pc _⟩
  | .seReg _ _ => ⟨_, rfl, .pc _⟩
  | .sneReg _ _ => ⟨_, rfl, .pc _⟩
  | .ldByte x _ => ⟨_, rfl, .reg x _ rfl⟩
  | .addByte x _ => ⟨_, rfl, .reg x _ rfl⟩
  | .ldReg x _ => ⟨_, rfl, .reg x _ rfl⟩
  | .orReg x _ => ⟨_, rfl, .reg x _ rfl⟩
  | .andReg x _ => ⟨_, rfl, .reg x _ rfl⟩
  | .xorReg x _ => ⟨_, rfl, .reg x _ rfl⟩
  | .addReg x y => ⟨_, rfl, .resultFlag x _ _ (.inl ⟨x, y, rfl⟩)⟩
  | .subReg x y => ⟨_, rfl, .resultFlag x _ _ (.inr (.inl ⟨x, y, rfl⟩))⟩
  | .shr x y => ⟨_, rfl, .resultFlag x _ _ (.inr (.inr (.inr (.inl ⟨x, y, rfl⟩))))⟩
  | .subnReg x y => ⟨_, rfl, .resultFlag x _ _ (.inr (.inr (.inl ⟨x, y, rfl⟩)))⟩
  | .shl x y => ⟨_, rfl, .resultFlag x _ _ (.inr (.inr (.inr (.inr (.inl ⟨x, y, rfl⟩)))))⟩
  | .ldI nnn => ⟨_, rfl, .index nnn (.inl ⟨nnn, rfl⟩)⟩
  | .jpV0 _ => ⟨_, rfl, .pc _⟩
  | .rnd x _ => ⟨_, rfl, .reg x _ rfl⟩
  | .drw x y n => ⟨_, rfl, .draw x y n rfl⟩
  | .skp _ => ⟨_, rfl, .pc _⟩
  | .sknp _ => ⟨_, rfl, .pc _⟩
  | .ldVxDt x => ⟨_, rfl, .reg x _ rfl⟩
  | .ldDtVx x => ⟨_, rfl, .delay x rfl⟩
  | .ldStVx x => ⟨_, rfl, .sound x rfl⟩
  | .ldVxK x => execLdVxK_effect x s
  | .addIVx x => ⟨_, rfl, .index _ (.inr (.inl ⟨x, rfl⟩))⟩
  | .ldFVx x => ⟨_, rfl, .index _ (.inr (.inr ⟨x, rfl⟩))⟩
  | .ldBVx x => ⟨_, rfl, .store _ _ (.inl ⟨x, rfl⟩)⟩
  | .ldMemVx x => ⟨_, rfl, .store _ _ (.inr ⟨x, rfl⟩)⟩
  | .ldVxMem x => ⟨_, rfl, .loadRegs x rfl⟩

/-- Inversion of `exec`: the state it answers is the old one after one of the effects. -/
theorem effect_of_exec {i : Instr} {s t : State} (h : exec i s = .next t) : Effect s i t := by
  obtain ⟨u, hu, he⟩ := exec_effect s i
  rw [hu] at h
  cases h
  exact he

/-! ## The invariant -/

@[simp] theorem inv_finish (s : State) : (finish s).Inv ↔ s.Inv := by simp [State.Inv]

/-- Only a push deepens the stack, and it is made below the full depth; only a store changes memory, byte by byte. -/
theorem Effect.inv {i : Instr} {s t : State} (he : Effect s i t) (hs : s.Inv) : t.Inv := by
  obtain ⟨hdepth, hmem⟩ := hs
  cases he
  case push nnn _ hroom => exact ⟨Nat.succ_le_of_lt hroom, hmem⟩
  case pop a rest _ hstack =>
    have hrest : rest.length + 1 ≤ Config.stackDepth := by simpa [hstack] using hdepth
    exact ⟨Nat.le_of_succ_le hrest, hmem⟩
  case store a bs _ => exact ⟨hdepth, Memory.wf_writeBytes bs s.mem a hmem⟩
  all_goals exact ⟨hdepth, hmem⟩

/-- Settles O16: a raise in part 3 changes neither field, and every effect of an instruction keeps the invariant. -/
theorem stepKeepsInvariant : Obligations.StepKeepsInvariant := by
  intro s t hs hstep
  have ha : (advance s).Inv := hs
  obtain ⟨-, rfl⟩ | ⟨i, u, -, hu, rfl⟩ := step_cases s t hstep
  · exact (inv_finish _).mpr ha
  · exact (inv_finish _).mpr ((effect_of_exec hu).inv ha)

/-! ## The ports of the step: the inputs and the result -/

/-- The ports through which the host supplies inputs, replaced. -/
def State.withInputs (s : State) (l : List StepInput) (n : Nat) : State := { s with inputs := l, steps := n }

theorem fetch_of_sameCore {s s' : State} (h : SameCore s s') : fetch s' = fetch s := by
  obtain ⟨-, -, hpc, -, -, -, hmem, -⟩ := h
  simp only [fetch, hpc, hmem]

/-- After the advance, two states with the same core differ in their inputs only. -/
theorem advance_of_sameCore {s s' : State} (h : SameCore s s') :
    advance s' = (advance s).withInputs s'.inputs s'.steps := by
  obtain ⟨v, i, pc, dt, st, stack, mem, disp, r, l, n⟩ := s
  obtain ⟨v', i', pc', dt', st', stack', mem', disp', r', l', n'⟩ := s'
  obtain ⟨rfl, rfl, rfl, rfl, rfl, rfl, rfl, rfl⟩ := h
  rfl

/-- `step` reads the state through `fetch` and `advance` alone. -/
theorem step_congr {s s' : State} (hf : fetch s' = fetch s) (ha : advance s' = advance s) : step s' = step s := by
  unfold step
  rw [hf, ha]

/-- Settles O18: `advance` overwrites the result, so nothing is left of the old one. -/
theorem stepDependsOnCoreAndInputs : Obligations.StepDependsOnCoreAndInputs := by
  intro s s' hcore ⟨hinputs, hsteps⟩
  refine step_congr (fetch_of_sameCore hcore) ?_
  rw [advance_of_sameCore hcore, hinputs, hsteps]
  rfl

/-- An instruction that does not use the inputs acts the same under any of them, and hands them on. -/
theorem exec_withInputs {i : Instr} (hi : ¬ UsesInput i) {s t : State} (h : exec i s = .next t) (l : List StepInput)
    (n : Nat) : exec i (s.withInputs l n) = .next (t.withInputs l n) := by
  cases i
  case rnd x nn => exact absurd (.inl ⟨x, nn, rfl⟩) hi
  case skp x => exact absurd (.inr (.inl ⟨x, rfl⟩)) hi
  case sknp x => exact absurd (.inr (.inr (.inl ⟨x, rfl⟩))) hi
  case ldVxK x => exact absurd (.inr (.inr (.inr ⟨x, rfl⟩))) hi
  case ret =>
    obtain ⟨v, i, pc, dt, st, stack, mem, disp, r, l', n'⟩ := s
    cases stack <;> (cases h; rfl)
  case call nnn =>
    by_cases hs : Config.stackDepth ≤ s.stack.length
    · have ht : s.raise .stackOverflow = t := by simpa [exec, execCall, hs] using h
      subst ht
      exact if_pos hs
    · have ht : (s.setStack (s.pc :: s.stack)).setPc nnn = t := by simpa [exec, execCall, hs] using h
      subst ht
      exact if_neg hs
  all_goals cases h; rfl

/-- The end of a step does not let the inputs into the core. -/
theorem sameCore_finish_withInputs (s : State) (l : List StepInput) (n : Nat) :
    SameCore (finish s) (finish (s.withInputs l n)) := by
  refine ⟨?_, ?_, ?_, ?_, ?_, ?_, ?_, ?_⟩ <;> simp [finish_dt, finish_st, State.withInputs]

/-- Settles O19: both states run the same word from advanced states that differ in the inputs only. -/
theorem inputsReachOnlyTheirInstructions : Obligations.InputsReachOnlyTheirInstructions := by
  intro s s' hcore hword
  have ha := advance_of_sameCore hcore
  have hf := fetch_of_sameCore hcore
  rcases hd : decodeWord (fetch s) with ⟨⟨⟩⟩ | i
  · refine ⟨_, _, step_of_illegal s hd, step_of_illegal s' (hf ▸ hd), ?_, by simp⟩
    rw [ha]
    exact sameCore_finish_withInputs ((advance s).raise .unimplementedOpcode) _ _
  · obtain ⟨u, hu⟩ := exec_answers i (advance s)
    have hu' : exec i (advance s') = .next (u.withInputs s'.inputs s'.steps) := by
      rw [ha]
      exact exec_withInputs (hword i hd) hu _ _
    refine ⟨_, _, step_of_decode s i u hd hu, step_of_decode s' i _ (hf ▸ hd) hu', ?_, ?_⟩
    · exact sameCore_finish_withInputs u _ _
    · simp [State.withInputs]

/-! ## Who writes what -/

theorem Effect.stack_writer {i : Instr} {s t : State} (he : Effect s i t) (h : t.stack ≠ s.stack) :
    (∃ nnn, i = .call nnn) ∨ i = .ret := by
  cases he
  case push nnn hi _ => exact .inl ⟨nnn, hi⟩
  case pop hi _ => exact .inr hi
  all_goals exact absurd rfl h

theorem Effect.mem_writer {i : Instr} {s t : State} (he : Effect s i t) (h : t.mem ≠ s.mem) :
    (∃ x, i = .ldBVx x) ∨ ∃ x, i = .ldMemVx x := by
  cases he
  case store hi => exact hi
  all_goals exact absurd rfl h

theorem Effect.i_writer {i : Instr} {s t : State} (he : Effect s i t) (h : t.i ≠ s.i) :
    (∃ nnn, i = .ldI nnn) ∨ (∃ x, i = .addIVx x) ∨ ∃ x, i = .ldFVx x := by
  cases he
  case index hi => exact hi
  all_goals exact absurd rfl h

theorem Effect.dt_writer {i : Instr} {s t : State} (he : Effect s i t) (h : t.dt ≠ s.dt) : ∃ x, i = .ldDtVx x := by
  cases he
  case delay x hi => exact ⟨x, hi⟩
  all_goals exact absurd rfl h

theorem Effect.st_writer {i : Instr} {s t : State} (he : Effect s i t) (h : t.st ≠ s.st) : ∃ x, i = .ldStVx x := by
  cases he
  case sound x hi => exact ⟨x, hi⟩
  all_goals exact absurd rfl h

theorem Effect.sameInputs {i : Instr} {s t : State} (he : Effect s i t) : SameInputs s t := by
  cases he <;> exact ⟨rfl, rfl⟩

/-- VF changes as the flag, or as the register the `x` field names: the block load reaches VF only with `x` = 0xF. -/
theorem Effect.vf_writer {i : Instr} {s t : State} (he : Effect s i t) (h : t.reg 15 ≠ s.reg 15) :
    WritesFlag i ∨ xField i = some 15 := by
  cases he
  case reg x b hx =>
    have h15 : 15 = x := by
      by_contra hne
      exact h (by simp [hne])
    exact .inr (h15 ▸ hx)
  case resultFlag hi => exact .inl hi
  case loadRegs x hi =>
    have hx : x = 15 := by
      by_contra hne
      have hlt : x.val < 15 := Fin.val_lt_last hne
      exact h ((State.reg_setRegs_loadRegs s _ _ _ 15).trans (if_neg (Nat.not_lt.mpr hlt)))
    exact .inr (by rw [hi, hx]; rfl)
  case draw x y n hi => exact .inl (.inr (.inr (.inr (.inr (.inr ⟨x, y, n, hi⟩)))))
  all_goals exact absurd rfl h

/-- After a flag writer VF holds a flag: the flag is written last, so `x` = 0xF is no exception (D7). -/
theorem reg_vf_of_writesFlag {i : Instr} (hi : WritesFlag i) {s t : State} (h : exec i s = .next t) :
    ∃ f, t.reg 15 = flagByte f := by
  obtain ⟨x, y, rfl⟩ | ⟨x, y, rfl⟩ | ⟨x, y, rfl⟩ | ⟨x, y, rfl⟩ | ⟨x, y, rfl⟩ | ⟨x, y, n, rfl⟩ := hi
  all_goals
    cases h
    exact ⟨_, State.reg_setFlag _ _ regVF⟩

/-- Settles O20, by the effects that reach VF and by the flag each flag writer writes last. -/
theorem vfWriters : Obligations.VfWriters := by
  refine ⟨fun i s t h hne => (effect_of_exec h).vf_writer hne, fun i s t hi h => ?_⟩
  obtain ⟨f, hf⟩ := reg_vf_of_writesFlag hi h
  rw [hf]
  cases f
  · exact .inl rfl
  · exact .inr rfl

/-- Settles O22: the writers of each field are those of the effects that reach it. -/
theorem writersOfStackMemoryIndexTimers : Obligations.WritersOfStackMemoryIndexTimers := by
  intro i s t h
  have he := effect_of_exec h
  have hmem : (∃ a : Addr, t.mem.read a ≠ s.mem.read a) → t.mem ≠ s.mem := by
    rintro ⟨a, ha⟩ heq
    exact ha (by rw [heq])
  exact ⟨he.stack_writer, fun hr => he.mem_writer (hmem hr), he.i_writer, he.dt_writer, he.st_writer, he.sameInputs⟩

/-! ## Reset and load -/

/-- `load` answers a state exactly for a program that fits: the reset state with the image placed, and the inputs of
coming steps as they were. -/
theorem load_eq_next_iff (prog : List Byte) (s t : State) :
    load prog s = .next t ↔ prog.length ≤ Config.maxProgram ∧
      (State.reset.setMem (State.reset.mem.writeBytes Config.programBase prog)).withInputs s.inputs s.steps = t := by
  unfold load programFits
  by_cases h : prog.length ≤ Config.maxProgram
  · simp [h, State.setMem, State.withInputs]
  · simp [h]

theorem inv_reset : State.reset.Inv := ⟨Nat.zero_le _, Memory.wf_reset⟩

/-- Settles O17: loading writes the image byte by byte into the reset memory, and the stack is empty. -/
theorem resetMeetsInvariant : Obligations.ResetMeetsInvariant := by
  refine ⟨inv_reset, fun prog s t h => ?_⟩
  obtain ⟨-, rfl⟩ := (load_eq_next_iff prog s t).mp h
  exact ⟨Nat.zero_le _, Memory.wf_writeBytes prog _ _ Memory.wf_reset⟩

/-- Settles O50: the image lies at the distances from 0x200 below its length, and does not wrap. -/
theorem loadPlacesProgram : Obligations.LoadPlacesProgram := by
  intro prog s hfit
  have hread (a : Addr) : (State.reset.mem.writeBytes Config.programBase prog).read a =
      (prog[(a - 0x200#12).toNat]?).getD (State.reset.mem.read a) :=
    Memory.read_writeBytes prog _ _ a (hfit.trans (by decide))
  refine ⟨_, (load_eq_next_iff prog s _).mpr ⟨hfit, rfl⟩, fun k b hk => ?_, fun a ha => ?_,
    rfl, rfl, rfl, rfl, rfl, rfl, rfl⟩
  · have hlt : k < prog.length := (List.getElem?_eq_some_iff.mp hk).1
    have hdist : (BitVec.ofNat 12 (0x200 + k) - 0x200#12).toNat = k := by
      simp only [BitVec.toNat_sub, BitVec.toNat_ofNat]
      omega
    refine (hread _).trans ?_
    rw [hdist, hk]
    rfl
  · have hdist : prog.length ≤ (a - 0x200#12).toNat := by
      have := a.isLt
      simp only [BitVec.toNat_sub, BitVec.toNat_ofNat]
      omega
    refine (hread a).trans ?_
    rw [List.getElem?_eq_none hdist]
    rfl

theorem resetByte_of_ge {a : Nat} (h : 0x050 ≤ a) : resetByte a = 0 := by
  have hlen : fontTable.length ≤ a := h
  simp [resetByte, List.getElem?_eq_none hlen]

/-- Settles O49: the font is the whole of what memory reads below 0x050, and nothing lies above it. -/
theorem resetState : Obligations.ResetState :=
  ⟨by decide, rfl, rfl, rfl, rfl, rfl, Display.cell_clear, by decide, fun _ ha => resetByte_of_ge ha⟩

end Sys2Proof.Machine

/-! PROOFS of the family 20_memory.md: the memory primitives, and the block store followed by the block load. -/

namespace Sys2Proof.Machine

/-! ## The memory primitives -/

/-- The byte formed first has weight 256: its shift leaves the low byte free for the second. -/
theorem toNat_wordOfBytes (first second : Byte) :
    (wordOfBytes first second).toNat = first.toNat * 256 + second.toNat := by
  have hfirst : first.toNat <<< 8 < 2 ^ 16 := by
    rw [Nat.shiftLeft_eq]
    exact Nat.mul_lt_mul_of_pos_right first.isLt (by decide)
  calc (wordOfBytes first second).toNat
      = first.toNat <<< 8 ||| second.toNat := by
        rw [wordOfBytes, BitVec.toNat_or, BitVec.toNat_shiftLeft, BitVec.toNat_setWidth_of_le (by decide),
          BitVec.toNat_setWidth_of_le (by decide), Nat.mod_eq_of_lt hfirst]
    _ = first.toNat <<< 8 + second.toNat := (Nat.shiftLeft_add_eq_or_of_lt second.isLt _).symm
    _ = first.toNat * 256 + second.toNat := by rw [Nat.shiftLeft_eq]

/-- Two numbers name the same address exactly when they agree modulo 4096 (20_memory.md R56). -/
theorem ofNat_addr_eq_iff (a c : Nat) : BitVec.ofNat 12 a = BitVec.ofNat 12 c ↔ a % 4096 = c % 4096 := by
  rw [← BitVec.toNat_inj, BitVec.toNat_ofNat, BitVec.toNat_ofNat]

/-- Settles O8: the read after the write compares 12-bit addresses, and the fetched word is its two bytes by weight. -/
theorem memoryPrimitives : Obligations.MemoryPrimitives := by
  refine ⟨fun m a c b => ?_, fun s => ?_⟩
  · simp only [Memory.read_write, ofNat_addr_eq_iff]
  · have hpc : BitVec.ofNat 12 s.pc.toNat = s.pc :=
      (BitVec.ofNat_toNat 12 s.pc).trans (BitVec.setWidth_eq s.pc)
    have hnext : BitVec.ofNat 12 (s.pc.toNat + 1) = s.pc + 1 := by
      rw [BitVec.ofNat_add, hpc]
      rfl
    rw [hpc, hnext]
    exact toNat_wordOfBytes _ _

/-! ## The block store and the block load -/

@[simp] theorem dataAddr_zero (s : State) : dataAddr s 0 = s.i := BitVec.add_zero s.i

/-- `LD [I],Vx` stores `V[0]` to `V[x]` from I upward and writes memory only. -/
theorem exec_ldMemVx (x : Reg) (s : State) :
    exec (.ldMemVx x) s = .next (s.setMem (s.mem.writeBytes s.i (regsUpTo s x))) := by
  rw [← dataAddr_zero]
  rfl

/-- `LD Vx,[I]` loads `V[0]` to `V[x]` from I upward and writes registers only. -/
theorem exec_ldVxMem (x : Reg) (s : State) :
    exec (.ldVxMem x) s = .next (s.setRegs (loadRegs s.mem s.i (x.val + 1) s.v)) := by
  rw [← dataAddr_zero]
  rfl

/-- A register number is its own distance modulo 4096, so that the sixteen bytes of a block store never overlap, not even
where they wrap. -/
theorem toNat_dataAddr_sub_i (s : State) (r : Reg) : (dataAddr s r.val - s.i).toNat = r.val := by
  have hr : r.val < 4096 := by omega
  have hdist : dataAddr s r.val - s.i = BitVec.ofNat 12 r.val := add_sub_cancel_left s.i _
  rw [hdist, BitVec.toNat_ofNat, Nat.mod_eq_of_lt hr]

/-- After the block store the byte at `(I + r) mod 4096` is `V[r]`, for every stored register and every I. -/
theorem read_writeBytes_regsUpTo (s : State) (x r : Reg) (hr : r ≤ x) :
    (s.mem.writeBytes s.i (regsUpTo s x)).read (dataAddr s r.val) = s.reg r := by
  have hlen : (regsUpTo s x).length ≤ Config.memSize := by
    rw [length_regsUpTo, Config.memSize]
    omega
  rw [Memory.read_writeBytes _ _ _ _ hlen, toNat_dataAddr_sub_i, getElem?_regsUpTo, dif_pos (Fin.le_def.mp hr)]
  rfl

/-- Settles O10: the load reads the addresses of the store, because neither writes I and I is the same between them. -/
theorem storeLoadRoundTrip : Obligations.StoreLoadRoundTrip := by
  intro x s s1 s2 hstore hi hkept
  rw [exec_ldMemVx] at hstore
  cases hstore
  have hi' : s2.i = s.i := hi
  have hread (r : Reg) (hr : r ≤ x) : s2.mem.read (dataAddr s r.val) = s.reg r :=
    (hkept r.val hr).trans (read_writeBytes_regsUpTo s x r hr)
  refine ⟨_, exec_ldVxMem x s2, fun r => ?_⟩
  rw [State.reg_setRegs_loadRegs, hi']
  by_cases hr : r ≤ x
  · rw [if_pos (Nat.lt_succ_of_le hr), if_pos hr]
    exact hread r hr
  · rw [if_neg (fun hlt => hr (Nat.le_of_lt_succ hlt)), if_neg hr]

end Sys2Proof.Machine

/-! PROOFS of the family 30_encoding.md: the decoder by the rows of the opcode map, the encoder's words, the illegal
words. -/

namespace Sys2Proof

/-! ## A word and its fields -/

theorem regBits_fieldX (op : Word) : regBits (fieldX op) = op.extractLsb' 8 4 := regBits_toFin _

theorem regBits_fieldY (op : Word) : regBits (fieldY op) = op.extractLsb' 4 4 := regBits_toFin _

theorem word_ext_nnn {a b : Word} (hg : fieldGroup a = fieldGroup b) (hnnn : fieldNNN a = fieldNNN b) : a = b := by
  simp only [fieldGroup, fieldNNN, ← BitVec.toNat_inj, BitVec.extractLsb'_toNat, Nat.shiftRight_eq_div_pow] at *
  omega

theorem word_ext_xnn {a b : Word} (hg : fieldGroup a = fieldGroup b) (hx : fieldX a = fieldX b)
    (hnn : fieldNN a = fieldNN b) : a = b := by
  replace hx := congrArg regBits hx
  simp only [fieldGroup, regBits_fieldX, fieldNN, ← BitVec.toNat_inj, BitVec.extractLsb'_toNat,
    Nat.shiftRight_eq_div_pow] at *
  omega

theorem word_ext_xyn {a b : Word} (hg : fieldGroup a = fieldGroup b) (hx : fieldX a = fieldX b)
    (hy : fieldY a = fieldY b) (hn : fieldN a = fieldN b) : a = b := by
  replace hx := congrArg regBits hx
  replace hy := congrArg regBits hy
  simp only [fieldGroup, regBits_fieldX, regBits_fieldY, fieldN, ← BitVec.toNat_inj, BitVec.extractLsb'_toNat,
    Nat.shiftRight_eq_div_pow] at *
  omega

theorem wordNNN_fields (op : Word) : wordNNN (fieldGroup op) (fieldNNN op) = op := word_ext_nnn (by simp) (by simp)

theorem wordXNN_fields (op : Word) : wordXNN (fieldGroup op) (fieldX op) (fieldNN op) = op :=
  word_ext_xnn (by simp) (by simp) (by simp)

theorem wordXYN_fields (op : Word) : wordXYN (fieldGroup op) (fieldX op) (fieldY op) (fieldN op) = op :=
  word_ext_xyn (by simp) (by simp) (by simp) (by simp)

theorem fieldN_eq_extractLsb'_fieldNN (op : Word) : fieldN op = (fieldNN op).extractLsb' 0 4 := by
  ext i hi
  simp [fieldN, fieldNN]

@[simp] theorem fieldN_wordXNN (g : BitVec 4) (x : Reg) (nn : Byte) :
    fieldN (wordXNN g x nn) = nn.extractLsb' 0 4 := by
  rw [fieldN_eq_extractLsb'_fieldNN, fieldNN_wordXNN]

/-! ## The three masks of the opcode map

Each keeps the group, and the selector where the group has one, whole, and clears the other fields. -/

theorem fieldGroup_and (a b : Word) : fieldGroup (a &&& b) = fieldGroup a &&& fieldGroup b := BitVec.extractLsb'_and

theorem fieldN_and (a b : Word) : fieldN (a &&& b) = fieldN a &&& fieldN b := BitVec.extractLsb'_and

theorem fieldNN_and (a b : Word) : fieldNN (a &&& b) = fieldNN a &&& fieldNN b := BitVec.extractLsb'_and

theorem and_groupMask_eq_iff {op code : Word} (hc : code &&& 0xF000#16 = code) :
    op &&& 0xF000#16 = code ↔ fieldGroup op = fieldGroup code := by
  refine ⟨fun h => extractLsb'_of_and_eq h 12 4 rfl, fun hg => ?_⟩
  rw [← hc]
  refine word_ext_nnn ?_ ?_
  · rw [fieldGroup_and, hg, fieldGroup_and]
  · simp [fieldNNN, BitVec.extractLsb'_and]

theorem and_selectorMask_eq_iff {op code : Word} (hc : code &&& 0xF00F#16 = code) :
    op &&& 0xF00F#16 = code ↔ fieldGroup op = fieldGroup code ∧ fieldN op = fieldN code := by
  refine ⟨fun h => ⟨extractLsb'_of_and_eq h 12 4 rfl, extractLsb'_of_and_eq h 0 4 rfl⟩, fun ⟨hg, hn⟩ => ?_⟩
  rw [← hc]
  refine word_ext_xyn ?_ ?_ ?_ ?_
  · rw [fieldGroup_and, hg, fieldGroup_and]
  · simp [fieldX, BitVec.extractLsb'_and]
  · simp [fieldY, BitVec.extractLsb'_and]
  · rw [fieldN_and, hn, fieldN_and]

theorem and_selectorByteMask_eq_iff {op code : Word} (hc : code &&& 0xF0FF#16 = code) :
    op &&& 0xF0FF#16 = code ↔ fieldGroup op = fieldGroup code ∧ fieldNN op = fieldNN code := by
  refine ⟨fun h => ⟨extractLsb'_of_and_eq h 12 4 rfl, extractLsb'_of_and_eq h 0 8 rfl⟩, fun ⟨hg, hnn⟩ => ?_⟩
  rw [← hc]
  refine word_ext_xnn ?_ ?_ ?_
  · rw [fieldGroup_and, hg, fieldGroup_and]
  · simp [fieldX, BitVec.extractLsb'_and]
  · rw [fieldNN_and, hnn, fieldNN_and]

/-! ## The decoder -/

/-- The instruction of the same row whose operands are the fields of `op`. -/
def Instr.withFieldsOf (i : Instr) (op : Word) : Instr :=
  match i with
  | .cls => .cls
  | .ret => .ret
  | .jp _ => .jp (fieldNNN op)
  | .call _ => .call (fieldNNN op)
  | .seByte _ _ => .seByte (fieldX op) (fieldNN op)
  | .sneByte _ _ => .sneByte (fieldX op) (fieldNN op)
  | .seReg _ _ => .seReg (fieldX op) (fieldY op)
  | .sneReg _ _ => .sneReg (fieldX op) (fieldY op)
  | .ldByte _ _ => .ldByte (fieldX op) (fieldNN op)
  | .addByte _ _ => .addByte (fieldX op) (fieldNN op)
  | .ldReg _ _ => .ldReg (fieldX op) (fieldY op)
  | .orReg _ _ => .orReg (fieldX op) (fieldY op)
  | .andReg _ _ => .andReg (fieldX op) (fieldY op)
  | .xorReg _ _ => .xorReg (fieldX op) (fieldY op)
  | .addReg _ _ => .addReg (fieldX op) (fieldY op)
  | .subReg _ _ => .subReg (fieldX op) (fieldY op)
  | .shr _ _ => .shr (fieldX op) (fieldY op)
  | .subnReg _ _ => .subnReg (fieldX op) (fieldY op)
  | .shl _ _ => .shl (fieldX op) (fieldY op)
  | .ldI _ => .ldI (fieldNNN op)
  | .jpV0 _ => .jpV0 (fieldNNN op)
  | .rnd _ _ => .rnd (fieldX op) (fieldNN op)
  | .drw _ _ _ => .drw (fieldX op) (fieldY op) (fieldN op)
  | .skp _ => .skp (fieldX op)
  | .sknp _ => .sknp (fieldX op)
  | .ldVxDt _ => .ldVxDt (fieldX op)
  | .ldDtVx _ => .ldDtVx (fieldX op)
  | .ldStVx _ => .ldStVx (fieldX op)
  | .ldVxK _ => .ldVxK (fieldX op)
  | .addIVx _ => .addIVx (fieldX op)
  | .ldFVx _ => .ldFVx (fieldX op)
  | .ldBVx _ => .ldBVx (fieldX op)
  | .ldMemVx _ => .ldMemVx (fieldX op)
  | .ldVxMem _ => .ldVxMem (fieldX op)

/-- `op` is a word of `i`: it matches the row of `i`, and its fields are the operands of `i`. -/
def Spells (op : Word) (i : Instr) : Prop :=
  op &&& (opcodeRow i).mask = (opcodeRow i).code ∧ i.withFieldsOf op = i

theorem opcodeRow_withFieldsOf (op : Word) (i : Instr) : opcodeRow (i.withFieldsOf op) = opcodeRow i := by
  cases i <;> rfl

/-- A word that matches the row of an instruction is decoded to that row, with the word's own fields as operands: the
encoding line of every instruction's rule. -/
theorem decodesAs_row (i : Instr) : Machine.DecodesAs (opcodeRow i).mask (opcodeRow i).code i.withFieldsOf := by
  intro op h
  cases i
  all_goals
    dsimp only [opcodeRow] at h
    have hg := extractLsb'_of_and_eq h 12 4 rfl
  case jp | call | seByte | sneByte | seReg | sneReg | ldByte | addByte | ldI | jpV0 | rnd | drw =>
    simp [decodeWord, fieldGroup, hg, Instr.withFieldsOf]
  case cls | ret | ldReg | orReg | andReg | xorReg | addReg | subReg | shr | subnReg | shl | skp | sknp =>
    have hn := extractLsb'_of_and_eq h 0 4 rfl
    simp [decodeWord, decodeGroup0, decodeGroup8, decodeGroupE, fieldGroup, fieldN, hg, hn, Instr.withFieldsOf]
  case ldVxDt | ldDtVx | ldStVx | ldVxK | addIVx | ldFVx | ldBVx | ldMemVx | ldVxMem =>
    have hnn := extractLsb'_of_and_eq h 0 8 rfl
    simp [decodeWord, decodeGroupF, fieldGroup, fieldNN, hg, hnn, Instr.withFieldsOf]

/-- Only the words of an instruction decode to it: the branches of the tree, by how the group selects. -/
theorem spells_of_decodeWord {op : Word} {i : Instr} (h : decodeWord op = .ok i) : Spells op i := by
  unfold decodeWord decodeGroup0 decodeGroup8 decodeGroupE decodeGroupF at h
  split at h
  case h_1 hg | h_9 hg | h_15 hg =>
    replace hg := (BitVec.toNat_eq_nat.mp hg).2
    split at h
    all_goals cases h
    all_goals
      rename_i hn
      refine ⟨?_, rfl⟩
      dsimp only [opcodeRow]
      exact (and_selectorMask_eq_iff rfl).mpr ⟨hg, (BitVec.toNat_eq_nat.mp hn).2⟩
  case h_16 hg =>
    replace hg := (BitVec.toNat_eq_nat.mp hg).2
    split at h
    all_goals cases h
    all_goals
      rename_i hnn
      refine ⟨?_, rfl⟩
      dsimp only [opcodeRow]
      exact (and_selectorByteMask_eq_iff rfl).mpr ⟨hg, (BitVec.toNat_eq_nat.mp hnn).2⟩
  all_goals cases h
  all_goals
    rename_i hg
    refine ⟨?_, rfl⟩
    dsimp only [opcodeRow]
    exact (and_groupMask_eq_iff rfl).mpr (BitVec.toNat_eq_nat.mp hg).2

/-- The decoder in full: a word decodes to the instructions it spells. -/
theorem decodeWord_eq_ok_iff (op : Word) (i : Instr) : decodeWord op = .ok i ↔ Spells op i := by
  refine ⟨spells_of_decodeWord, fun ⟨hrow, hfields⟩ => ?_⟩
  rw [decodesAs_row i op hrow, hfields]

/-! ## The encoder -/

theorem encode_matches_row (i : Instr) : encode i &&& (opcodeRow i).mask = (opcodeRow i).code := by
  cases i
  all_goals dsimp only [encode, opcodeRow]
  case cls | ret => rfl
  case jp | call | ldI | jpV0 => exact (and_groupMask_eq_iff rfl).mpr (fieldGroup_wordNNN _ _)
  case seByte | sneByte | ldByte | addByte | rnd => exact (and_groupMask_eq_iff rfl).mpr (fieldGroup_wordXNN _ _ _)
  case seReg | sneReg | drw => exact (and_groupMask_eq_iff rfl).mpr (fieldGroup_wordXYN _ _ _ _)
  case ldReg | orReg | andReg | xorReg | addReg | subReg | shr | subnReg | shl =>
    exact (and_selectorMask_eq_iff rfl).mpr ⟨fieldGroup_wordXYN _ _ _ _, fieldN_wordXYN _ _ _ _⟩
  case skp | sknp => exact (and_selectorMask_eq_iff rfl).mpr ⟨fieldGroup_wordXNN _ _ _, fieldN_wordXNN _ _ _⟩
  all_goals exact (and_selectorByteMask_eq_iff rfl).mpr ⟨fieldGroup_wordXNN _ _ _, fieldNN_wordXNN _ _ _⟩

theorem withFieldsOf_encode (i : Instr) : i.withFieldsOf (encode i) = i := by
  cases i <;> simp [Instr.withFieldsOf, encode]

/-- Settles O2: the encoded word matches the instruction's row and holds its operands. -/
theorem decodeEncodeRoundTrip : Obligations.DecodeEncodeRoundTrip := fun i =>
  (decodeWord_eq_ok_iff (encode i) i).mpr ⟨encode_matches_row i, withFieldsOf_encode i⟩

/-! ## Canonical words

What `canonicalWord` asks of the bits that the decode tree does not examine. -/

theorem canonicalWord_group0 {op : Word} (hg : fieldGroup op = 0x0#4) (h : canonicalWord op = true) :
    op = 0x00E0#16 ∨ op = 0x00EE#16 := by
  rw [fieldGroup] at hg
  simpa [canonicalWord, hg] using h

theorem canonicalWord_group5_or_9 {op : Word} (hg : fieldGroup op = 0x5#4 ∨ fieldGroup op = 0x9#4)
    (h : canonicalWord op = true) : fieldN op = 0x0#4 := by
  unfold fieldGroup at hg
  obtain hg | hg := hg <;> simpa [canonicalWord, hg, fieldN, ← BitVec.toNat_inj] using h

theorem canonicalWord_groupE {op : Word} (hg : fieldGroup op = 0xE#4) (h : canonicalWord op = true) :
    fieldNN op = 0x9E#8 ∨ fieldNN op = 0xA1#8 := by
  rw [fieldGroup] at hg
  simpa [canonicalWord, hg, fieldNN, ← BitVec.toNat_inj] using h

/-- A canonical word of a row is the one the encoder makes of its fields: the unexamined bits are as the encoder writes
them, and in groups 0x0 and 0xE the selector says which of the two canonical values they have. -/
theorem encode_withFieldsOf {op : Word} {i : Instr} (hc : canonicalWord op = true)
    (hrow : op &&& (opcodeRow i).mask = (opcodeRow i).code) : encode (i.withFieldsOf op) = op := by
  have hnnn := wordNNN_fields op
  have hxnn := wordXNN_fields op
  have hxyn := wordXYN_fields op
  cases i
  all_goals
    dsimp only [opcodeRow] at hrow
    have hg : fieldGroup op = _ := extractLsb'_of_and_eq hrow 12 4 rfl
    rw [hg] at hnnn hxnn hxyn
  case cls =>
    obtain rfl | rfl := canonicalWord_group0 hg hc
    · rfl
    · exact absurd hrow (by decide)
  case ret =>
    obtain rfl | rfl := canonicalWord_group0 hg hc
    · exact absurd hrow (by decide)
    · rfl
  case jp | call | ldI | jpV0 => exact hnnn
  case seByte | sneByte | ldByte | addByte | rnd => exact hxnn
  case drw => exact hxyn
  case seReg =>
    rw [canonicalWord_group5_or_9 (.inl hg) hc] at hxyn
    exact hxyn
  case sneReg =>
    rw [canonicalWord_group5_or_9 (.inr hg) hc] at hxyn
    exact hxyn
  case ldReg | orReg | andReg | xorReg | addReg | subReg | shr | subnReg | shl =>
    have hn : fieldN op = _ := extractLsb'_of_and_eq hrow 0 4 rfl
    rw [hn] at hxyn
    exact hxyn
  case skp =>
    have hn : fieldN op = 0xE#4 := extractLsb'_of_and_eq hrow 0 4 rfl
    obtain hnn | hnn := canonicalWord_groupE hg hc
    · rw [hnn] at hxnn
      exact hxnn
    · rw [fieldN_eq_extractLsb'_fieldNN, hnn] at hn
      exact absurd hn (by decide)
  case sknp =>
    have hn : fieldN op = 0x1#4 := extractLsb'_of_and_eq hrow 0 4 rfl
    obtain hnn | hnn := canonicalWord_groupE hg hc
    · rw [fieldN_eq_extractLsb'_fieldNN, hnn] at hn
      exact absurd hn (by decide)
    · rw [hnn] at hxnn
      exact hxnn
  case ldVxDt | ldDtVx | ldStVx | ldVxK | addIVx | ldFVx | ldBVx | ldMemVx | ldVxMem =>
    have hnn : fieldNN op = _ := extractLsb'_of_and_eq hrow 0 8 rfl
    rw [hnn] at hxnn
    exact hxnn

/-- Settles O3: the instruction's operands are the word's fields, and a canonical word is determined by its row and
these. -/
theorem encodeDecodeCanonicalWord : Obligations.EncodeDecodeCanonicalWord := by
  intro op i hc hd
  obtain ⟨hrow, hfields⟩ := spells_of_decodeWord hd
  rw [← hfields]
  exact encode_withFieldsOf hc hrow

/-! ## The opcode map -/

theorem opcodeRow_mem_opcodeMap (i : Instr) : opcodeRow i ∈ opcodeMap := by
  cases i <;> (dsimp only [opcodeRow]; decide)

theorem exists_opcodeRow_of_mem {row : OpcodeRow} (h : row ∈ opcodeMap) : ∃ i, opcodeRow i = row := by
  obtain ⟨i, -, hi⟩ := List.mem_map.mp h
  exact ⟨i, hi⟩

/-- Settles O4: the two directions of the decoder's equation, for the rows of the map. -/
theorem decodeFollowsOpcodeMap : Obligations.DecodeFollowsOpcodeMap := by
  refine ⟨fun op i hd => ⟨opcodeRow_mem_opcodeMap i, (spells_of_decodeWord hd).1⟩, fun op row hmem hrow => ?_⟩
  obtain ⟨i, rfl⟩ := exists_opcodeRow_of_mem hmem
  exact ⟨i.withFieldsOf op, decodesAs_row i op hrow, opcodeRow_withFieldsOf op i⟩

/-- Settles O5: a word that matches two rows decodes to an instruction of each, and it decodes to one instruction. -/
theorem opcodeMapRowsDisjoint : Obligations.OpcodeMapRowsDisjoint := by
  refine ⟨rfl, fun r hr r' hr' op h h' => ?_⟩
  obtain ⟨i, hi, rfl⟩ := decodeFollowsOpcodeMap.2 op r hr h
  obtain ⟨i', hi', rfl⟩ := decodeFollowsOpcodeMap.2 op r' hr' h'
  cases hi.symm.trans hi'
  rfl

/-! ## The illegal words

Each selected group fails at the selectors that none of its branches names. -/

theorem decodeGroup0_eq_error_iff (op : Word) :
    decodeGroup0 op = .error .unimplementedOpcode ↔ fieldN op ∉ [0x0#4, 0xE#4] := by
  unfold decodeGroup0
  split
  case h_3 => simp_all [← BitVec.toNat_inj]
  all_goals rename_i hn; simp [← BitVec.toNat_inj, hn]

theorem decodeGroup8_eq_error_iff (op : Word) :
    decodeGroup8 op = .error .unimplementedOpcode ↔
      fieldN op ∈ [0x8#4, 0x9#4, 0xA#4, 0xB#4, 0xC#4, 0xD#4, 0xF#4] := by
  have hlt := (fieldN op).isLt
  unfold decodeGroup8
  split
  case h_10 =>
    simp only [imp_false, List.mem_cons, List.not_mem_nil, or_false, ← BitVec.toNat_inj, BitVec.reduceToNat,
      true_iff] at *
    omega
  all_goals rename_i hn; simp [← BitVec.toNat_inj, hn]

theorem decodeGroupE_eq_error_iff (op : Word) :
    decodeGroupE op = .error .unimplementedOpcode ↔ fieldN op ∉ [0x1#4, 0xE#4] := by
  unfold decodeGroupE
  split
  case h_3 => simp_all [← BitVec.toNat_inj]
  all_goals rename_i hn; simp [← BitVec.toNat_inj, hn]

theorem decodeGroupF_eq_error_iff (op : Word) :
    decodeGroupF op = .error .unimplementedOpcode ↔
      fieldNN op ∉ [0x07#8, 0x0A#8, 0x15#8, 0x18#8, 0x1E#8, 0x29#8, 0x33#8, 0x55#8, 0x65#8] := by
  unfold decodeGroupF
  split
  case h_10 => simp_all [← BitVec.toNat_inj]
  all_goals rename_i hnn; simp [← BitVec.toNat_inj, hnn]

/-- Settles O6: group by group; groups other than 0x0, 0x8, 0xE and 0xF have no illegal word. -/
theorem illegalWordsAreThoseListed : Obligations.IllegalWordsAreThoseListed := by
  intro op
  have hlt := (fieldGroup op).isLt
  unfold decodeWord
  split
  case h_17 =>
    simp only [imp_false] at *
    omega
  all_goals
    rename_i hg
    replace hg := (BitVec.toNat_eq_nat.mp hg).2
  case h_1 => simp [decodeGroup0_eq_error_iff, hg]
  case h_9 => simp [decodeGroup8_eq_error_iff, hg]
  case h_15 => simp [decodeGroupE_eq_error_iff, hg]
  case h_16 => simp [decodeGroupF_eq_error_iff, hg]
  all_goals simp [hg]

end Sys2Proof

/-! PROOFS of the family 40_step_cycle.md: the result each instruction leaves, the end of a step in numbers, and the
statements about the step that follow. -/

namespace Sys2Proof.Machine

/-! ## The advance and the end of a step -/

@[simp] theorem advance_pc (s : State) : (advance s).pc = s.pc + 2 := rfl
@[simp] theorem advance_stack (s : State) : (advance s).stack = s.stack := rfl
@[simp] theorem advance_result (s : State) : (advance s).result = .ok := rfl
@[simp] theorem advance_keys (s : State) : (advance s).keys = s.keys := rfl

theorem finish_dt_toNat (s : State) :
    (finish s).dt.toNat = if s.result.isFault then s.dt.toNat else s.dt.toNat - 1 := by
  rw [finish_dt, apply_ite BitVec.toNat, decayed_toNat]

theorem finish_st_toNat (s : State) :
    (finish s).st.toNat = if s.result.isFault then s.st.toNat else s.st.toNat - 1 := by
  rw [finish_st, apply_ite BitVec.toNat, decayed_toNat]

/-- A step that raises after the advance, in whichever part, leaves the core as it was but for `pc` (R97, D9). -/
theorem sameCore_finish_raise_advance (s : State) (kind : Fault) :
    SameCore s { finish ((advance s).raise kind) with pc := s.pc } :=
  ⟨rfl, rfl, rfl, rfl, rfl, rfl, rfl, rfl⟩

/-- Settles O11: a step is `finish` after the instruction or after the raise, and `finish` writes only the timers and
the input ports. -/
theorem stepRunsDecoded : Obligations.StepRunsDecoded := by
  refine ⟨fun s i u hd hu => ?_, fun s => ?_, fun s hd => ?_⟩
  · exact ⟨finish u, step_of_decode s i u hd hu, finish_v u, finish_i u, finish_pc u, finish_stack u, finish_mem u,
      finish_disp u, finish_result u, finish_inputs u, finish_steps u, finish_dt_toNat u, finish_st_toNat u⟩
  · exact ⟨BitVec.toNat_add s.pc 2, advance_result s, rfl⟩
  · exact ⟨_, step_of_illegal s hd, finish_result _, finish_pc _, sameCore_finish_raise_advance s _⟩

/-! ## The result of a step -/

/-- The result part 4 of the step leaves in the result port: RET, CALL and LD Vx,K may write it, no other instruction
does. -/
def resultAfter (i : Instr) (s : State) : StepResult :=
  match i with
  | .ret => if s.stack.length = 0 then .fault .stackUnderflow else s.result
  | .call _ => if Config.stackDepth ≤ s.stack.length then .fault .stackOverflow else s.result
  | .ldVxK _ => if s.keys = 0 then .waitingForKey else s.result
  | _ => s.result

theorem takeKey_result (x : Reg) (s : State) :
    (takeKey x (firstKey s.keys) s).result = if s.keys = 0 then .waitingForKey else s.result := by
  simp only [← firstKey_eq_none]
  cases firstKey s.keys <;> simp [takeKey]

theorem exec_result {i : Instr} {s t : State} (h : exec i s = .next t) : t.result = resultAfter i s := by
  cases i
  case ret | call =>
    dsimp only [exec, execRet, execCall] at h
    split at h
    all_goals
      rename_i hs
      cases h
      simp [resultAfter, hs]
  case ldVxK x =>
    cases h
    exact takeKey_result x s
  all_goals cases h; rfl

/-- The result of a step: the fault of part 3, or what the instruction leaves of the Ok of the advance. -/
theorem step_result {s t : State} (h : step s = .next t) :
    (decodeWord (fetch s) = .error .unimplementedOpcode ∧ t.result = .fault .unimplementedOpcode) ∨
      ∃ i, decodeWord (fetch s) = .ok i ∧ t.result = resultAfter i (advance s) := by
  obtain ⟨hd, rfl⟩ | ⟨i, u, hd, hu, rfl⟩ := step_cases s t h
  · exact .inl ⟨hd, finish_result _⟩
  · exact .inr ⟨i, hd, (finish_result u).trans (exec_result hu)⟩

/-- Settles O13: the result is the one of the step's word, and the invariant makes CALL's test at 16 entries or more a
test for 16. -/
theorem stepResultTable : Obligations.StepResultTable := by
  intro s t ⟨hdepth, _⟩ hstep
  have hfull : Config.stackDepth ≤ s.stack.length ↔ s.stack.length = 16 := ⟨hdepth.antisymm, fun h => h.ge⟩
  obtain ⟨hd, hr⟩ | ⟨i, hd, hr⟩ := step_result hstep
  · simp [hd, hr]
  · cases i
    case ret | call | ldVxK =>
      dsimp only [resultAfter] at hr
      split at hr
      all_goals
        rename_i htest
        simp only [advance_stack, advance_keys, BitVec.ofNat_eq_ofNat, hfull] at htest
        simp [hd, hr, htest]
    all_goals
      have hok : t.result = .ok := hr
      simp [hd, hok]

end Sys2Proof.Machine

/-! PROOFS of the family 41_flow.md: a word as a number, the jumps and skips, the push and the pop of the call stack,
the step that raises. -/

namespace Sys2Proof

/-! ## The number of an encoded word -/

theorem toNat_wordNNN (g : BitVec 4) (nnn : Addr) : (wordNNN g nnn).toNat = g.toNat * 4096 + nnn.toNat := by
  have hg := congrArg BitVec.toNat (fieldGroup_wordNNN g nnn)
  have hnnn := congrArg BitVec.toNat (fieldNNN_wordNNN g nnn)
  simp only [fieldGroup, fieldNNN, BitVec.extractLsb'_toNat, Nat.shiftRight_eq_div_pow] at hg hnnn
  omega

theorem regBits_toNat (r : Reg) : (regBits r).toNat = r.val := Nat.mod_eq_of_lt r.isLt

theorem fieldX_val (op : Word) : (fieldX op).val = op.toNat / 256 % 16 := by
  rw [← regBits_toNat, regBits_fieldX, BitVec.extractLsb'_toNat, Nat.shiftRight_eq_div_pow]

theorem fieldY_val (op : Word) : (fieldY op).val = op.toNat / 16 % 16 := by
  rw [← regBits_toNat, regBits_fieldY, BitVec.extractLsb'_toNat, Nat.shiftRight_eq_div_pow]

theorem toNat_wordXNN (g : BitVec 4) (x : Reg) (nn : Byte) :
    (wordXNN g x nn).toNat = g.toNat * 4096 + x.val * 256 + nn.toNat := by
  have hg := congrArg BitVec.toNat (fieldGroup_wordXNN g x nn)
  have hx := congrArg Fin.val (fieldX_wordXNN g x nn)
  have hnn := congrArg BitVec.toNat (fieldNN_wordXNN g x nn)
  simp only [fieldGroup, fieldX_val, fieldNN, BitVec.extractLsb'_toNat, Nat.shiftRight_eq_div_pow] at hg hx hnn
  omega

theorem toNat_wordXYN (g : BitVec 4) (x y : Reg) (n : BitVec 4) :
    (wordXYN g x y n).toNat = g.toNat * 4096 + x.val * 256 + y.val * 16 + n.toNat := by
  have hg := congrArg BitVec.toNat (fieldGroup_wordXYN g x y n)
  have hx := congrArg Fin.val (fieldX_wordXYN g x y n)
  have hy := congrArg Fin.val (fieldY_wordXYN g x y n)
  have hn := congrArg BitVec.toNat (fieldN_wordXYN g x y n)
  simp only [fieldGroup, fieldX_val, fieldY_val, fieldN, BitVec.extractLsb'_toNat, Nat.shiftRight_eq_div_pow]
    at hg hx hy hn
  omega

end Sys2Proof

namespace Sys2Proof.Machine

/-! ## The call stack -/

theorem exec_call_of_lt (nnn : Addr) {s : State} (h : s.stack.length < Config.stackDepth) :
    exec (.call nnn) s = .next ((s.setStack (s.pc :: s.stack)).setPc nnn) := if_neg (Nat.not_le.mpr h)

theorem exec_call_of_ge (nnn : Addr) {s : State} (h : Config.stackDepth ≤ s.stack.length) :
    exec (.call nnn) s = .next (s.raise .stackOverflow) := if_pos h

theorem exec_ret_of_cons {s : State} {a : Addr} {rest : List Addr} (h : s.stack = a :: rest) :
    exec .ret s = .next ((s.setStack rest).setPc a) := by
  simp [exec, execRet, h]

theorem exec_ret_of_nil {s : State} (h : s.stack = []) : exec .ret s = .next (s.raise .stackUnderflow) := by
  simp [exec, execRet, h]

/-- Nothing but the call stack and the program counter changed. -/
def OnlyStackPc (s t : State) : Prop :=
  SameRegsBut [] s t ∧ t.i = s.i ∧ SameTimers s t ∧ SameMemory s t ∧ SameDisplay s t ∧ t.result = s.result ∧
    SameInputs s t

theorem onlyStackPc_setStack_setPc (s : State) (l : List Addr) (a : Addr) :
    OnlyStackPc s ((s.setStack l).setPc a) :=
  ⟨fun _ _ => rfl, rfl, ⟨rfl, rfl⟩, fun _ => rfl, fun _ _ => rfl, rfl, rfl, rfl⟩

/-- A step whose instruction raises ends past that instruction with the rest of the core as it was (R97, D9). -/
theorem step_of_exec_raise {s : State} {i : Instr} {kind : Fault} (hd : decodeWord (fetch s) = .ok i)
    (hu : exec i (advance s) = .next ((advance s).raise kind)) :
    ∃ t, step s = .next t ∧ t.result = .fault kind ∧ t.pc = s.pc + 2 ∧ SameCore s { t with pc := s.pc } :=
  ⟨_, step_of_decode s i _ hd hu, finish_result _, finish_pc _, sameCore_finish_raise_advance s kind⟩

/-- Settles O32, by CALL's test of the depth; the advance of the step leaves the depth as it is. -/
theorem callPushesOrOverflows : Obligations.CallPushesOrOverflows := by
  refine ⟨decodesAs_row (.call 0), fun nnn =>
    ⟨toNat_wordNNN 0x2#4 nnn, fun s hs => ?_, fun s hs => ?_, fun s hs hd => ?_⟩⟩
  · exact ⟨_, exec_call_of_lt nnn hs, rfl, rfl, onlyStackPc_setStack_setPc s _ nnn⟩
  · exact ⟨_, exec_call_of_ge nnn hs.ge, rfl, onlyResult_raise s _⟩
  · exact step_of_exec_raise hd (exec_call_of_ge nnn hs.ge)

/-- Settles O33, by whether the stack has an entry; the advance of the step leaves the stack as it is. -/
theorem returnPopsOrUnderflows : Obligations.ReturnPopsOrUnderflows := by
  refine ⟨decodesAs_row .ret, rfl, fun s a rest hs => ?_, fun s hs => ?_, fun s hs hd => ?_⟩
  · exact ⟨_, exec_ret_of_cons hs, rfl, rfl, onlyStackPc_setStack_setPc s rest a⟩
  · exact ⟨_, exec_ret_of_nil (List.length_eq_zero_iff.mp hs), rfl, onlyResult_raise s _⟩
  · have hempty : (advance s).stack = [] := List.length_eq_zero_iff.mp hs
    exact step_of_exec_raise hd (exec_ret_of_nil hempty)

/-! ## Jumps and skips -/

theorem exec_jp (nnn : Addr) (s : State) : exec (.jp nnn) s = .next (s.setPc nnn) := rfl

/-- Settles O30: the jump overwrites the advanced `pc`, and its result is Ok, so that the timers decay. -/
theorem jumpAbsolute : Obligations.JumpAbsolute := by
  refine ⟨decodesAs_row (.jp 0), fun nnn => ⟨toNat_wordNNN 0x1#4 nnn, fun s => ?_, fun s hd hself => ?_⟩⟩
  · exact ⟨_, exec_jp nnn s, rfl, onlyPc_setPc s nnn⟩
  · refine ⟨_, step_of_decode s _ _ hd (exec_jp nnn (advance s)), ?_, finish_dt_toNat _, finish_st_toNat _⟩
    rw [finish_pc, State.setPc_pc, hself]

theorem skipIf_pc_toNat (p : Prop) [Decidable p] (s : State) :
    (skipIf (decide p) s).pc.toNat = if p then (s.pc.toNat + 2) % 4096 else s.pc.toNat := by
  by_cases hp : p
  · simp [skipIf, hp, BitVec.toNat_add]
  · simp [skipIf, hp]

/-- The skip of the SNE forms, with the branches in the order of the comparison itself. -/
theorem skipIf_not_pc_toNat (p : Prop) [Decidable p] (s : State) :
    (skipIf (decide (¬ p)) s).pc.toNat = if p then s.pc.toNat else (s.pc.toNat + 2) % 4096 :=
  (skipIf_pc_toNat (¬ p) s).trans (ite_not p _ _)

theorem exec_seByte (x : Reg) (nn : Byte) (s : State) :
    exec (.seByte x nn) s = .next (skipIf (decide (s.reg x = nn)) s) := rfl

theorem exec_sneByte (x : Reg) (nn : Byte) (s : State) :
    exec (.sneByte x nn) s = .next (skipIf (decide (¬ s.reg x = nn)) s) := rfl

theorem exec_seReg (x y : Reg) (s : State) :
    exec (.seReg x y) s = .next (skipIf (decide (s.reg x = s.reg y)) s) := rfl

theorem exec_sneReg (x y : Reg) (s : State) :
    exec (.sneReg x y) s = .next (skipIf (decide (¬ s.reg x = s.reg y)) s) := rfl

/-- Settles O34: both instructions are the skip, on the comparison with the immediate and on its negation. -/
theorem skipOnImmediate : Obligations.SkipOnImmediate := by
  refine ⟨decodesAs_row (.seByte 0 0), decodesAs_row (.sneByte 0 0), fun x nn =>
    ⟨toNat_wordXNN 0x3#4 x nn, toNat_wordXNN 0x4#4 x nn, fun s => ⟨?_, ?_⟩⟩⟩
  · exact ⟨_, exec_seByte x nn s, onlyPc_skipIf s _, skipIf_pc_toNat _ s⟩
  · exact ⟨_, exec_sneByte x nn s, onlyPc_skipIf s _, skipIf_not_pc_toNat _ s⟩

/-- Settles O35: both instructions are the skip, on the comparison of the registers and on its negation. -/
theorem skipOnRegisters : Obligations.SkipOnRegisters := by
  refine ⟨decodesAs_row (.seReg 0 0), decodesAs_row (.sneReg 0 0), fun x y =>
    ⟨toNat_wordXYN 0x5#4 x y 0#4, toNat_wordXYN 0x9#4 x y 0#4, fun s => ⟨?_, ?_⟩⟩⟩
  · exact ⟨_, exec_seReg x y s, onlyPc_skipIf s _, skipIf_pc_toNat _ s⟩
  · exact ⟨_, exec_sneReg x y s, onlyPc_skipIf s _, skipIf_not_pc_toNat _ s⟩

end Sys2Proof.Machine

/-! PROOFS of the family 42_alu.md: a register after a write, the flag bits and the wrapped results as numbers, the
instructions on registers. -/

namespace Sys2Proof.Machine

/-! ## Encoding and register writes -/

/-- The number of a canonical word of group 0x8, as its rules write it: the selector beside the group. -/
theorem toNat_wordXYN_group8 (x y : Reg) (n : BitVec 4) :
    (wordXYN 0x8#4 x y n).toNat = 0x8000 + n.toNat + x.val * 256 + y.val * 16 := by
  have h := toNat_wordXYN 0x8#4 x y n
  simp only [BitVec.toNat_ofNat] at h
  omega

theorem reg_setReg_self (s : State) (x : Reg) (b : Byte) : (s.setReg x b).reg x = b := by
  rw [State.reg_setReg, if_pos rfl]

theorem reg_writeResultFlag_result (s : State) {x : Reg} (hx : x ≠ 15) (b : Byte) (f : Bool) :
    (writeResultFlag x b f s).reg x = b := by
  rw [reg_writeResultFlag, if_neg (show x ≠ regVF from hx), if_pos rfl]

theorem reg_writeResultFlag_vf (s : State) (x : Reg) (b : Byte) (f : Bool) :
    (writeResultFlag x b f s).reg 15 = flagByte f := by
  rw [reg_writeResultFlag]
  exact if_pos rfl

/-! ## Results and flags as numbers (R111) -/

theorem toNat_flagByte (f : Bool) : (flagByte f).toNat = f.toNat := by
  cases f <;> rfl

theorem toNat_flagByte_decide (p : Prop) [Decidable p] : (flagByte (decide p)).toNat = if p then 1 else 0 := by
  by_cases hp : p <;> simp [toNat_flagByte, hp]

theorem toNat_sub_eq_emod (a b : Byte) : ((a - b).toNat : Int) = ((a.toNat : Int) - b.toNat) % 256 := by
  have ha := a.isLt
  have hb := b.isLt
  rw [BitVec.toNat_sub]
  omega

theorem toNat_flagByte_getLsbD (a : Byte) (k : Nat) : (flagByte (a.getLsbD k)).toNat = a.toNat / 2 ^ k % 2 := by
  rw [toNat_flagByte, ← BitVec.testBit_toNat, Nat.toNat_testBit]

theorem toNat_flagByte_lowBit (a : Byte) : (flagByte (lowBit a)).toNat = a.toNat % 2 := by
  rw [lowBit, toNat_flagByte_getLsbD, Nat.pow_zero, Nat.div_one]

/-- Nothing lies above the top bit of a byte. -/
theorem toNat_flagByte_highBit (a : Byte) : (flagByte (highBit a)).toNat = a.toNat / 128 := by
  have ha := a.isLt
  rw [highBit, toNat_flagByte_getLsbD]
  omega

theorem toNat_shiftRight_one (a : Byte) : (a >>> 1).toNat = a.toNat / 2 := by
  rw [BitVec.toNat_ushiftRight, Nat.shiftRight_eq_div_pow, Nat.pow_one]

theorem toNat_shiftLeft_one (a : Byte) : (a <<< 1).toNat = a.toNat * 2 % 256 := by
  rw [BitVec.toNat_shiftLeft, Nat.shiftLeft_eq, Nat.pow_one]

/-! ## Arithmetic and shifts with the flag -/

theorem exec_addReg (x y : Reg) (s : State) : exec (.addReg x y) s =
    .next (writeResultFlag x (s.reg x + s.reg y) (carryOut (s.reg x) (s.reg y)) s) := rfl

theorem exec_subReg (x y : Reg) (s : State) : exec (.subReg x y) s =
    .next (writeResultFlag x (s.reg x - s.reg y) (noBorrow (s.reg x) (s.reg y)) s) := rfl

theorem exec_subnReg (x y : Reg) (s : State) : exec (.subnReg x y) s =
    .next (writeResultFlag x (s.reg y - s.reg x) (noBorrow (s.reg y) (s.reg x)) s) := rfl

theorem exec_shr (x y : Reg) (s : State) :
    exec (.shr x y) s = .next (writeResultFlag x (s.reg x >>> 1) (lowBit (s.reg x)) s) := rfl

theorem exec_shl (x y : Reg) (s : State) :
    exec (.shl x y) s = .next (writeResultFlag x (s.reg x <<< 1) (highBit (s.reg x)) s) := rfl

/-- Settles O26: the sum is written, then the carry, which is a comparison of the sum of the numbers. -/
theorem addRegisterCarry : Obligations.AddRegisterCarry := by
  refine ⟨decodesAs_row (.addReg 0 0), fun x y => ⟨toNat_wordXYN_group8 x y 4#4, fun s =>
    ⟨_, exec_addReg x y s, fun hx => ?_, ?_, onlyRegs_writeResultFlag s x _ _⟩⟩⟩
  · rw [reg_writeResultFlag_result s hx, BitVec.toNat_add]
  · rw [reg_writeResultFlag_vf, carryOut, toNat_flagByte_decide]

/-- A difference of two bytes written with the negation of its borrow, whichever of the two is the destination. -/
theorem writeResultFlag_sub (s : State) (x : Reg) (a b : Byte) :
    (x ≠ 15 → (((writeResultFlag x (a - b) (noBorrow a b) s).reg x).toNat : Int) = ((a.toNat : Int) - b.toNat) % 256) ∧
      ((writeResultFlag x (a - b) (noBorrow a b) s).reg 15).toNat = (if a.toNat ≥ b.toNat then 1 else 0) ∧
      OnlyRegs [x, 15] s (writeResultFlag x (a - b) (noBorrow a b) s) := by
  refine ⟨fun hx => ?_, ?_, onlyRegs_writeResultFlag s x _ _⟩
  · rw [reg_writeResultFlag_result s hx, toNat_sub_eq_emod]
  · rw [reg_writeResultFlag_vf, noBorrow, toNat_flagByte_decide]

/-- Settles O27: the two forms are one subtraction with the operands exchanged. -/
theorem subtractNoBorrow : Obligations.SubtractNoBorrow := by
  refine ⟨decodesAs_row (.subReg 0 0), decodesAs_row (.subnReg 0 0), fun x y =>
    ⟨toNat_wordXYN_group8 x y 5#4, toNat_wordXYN_group8 x y 7#4, fun s => ⟨?_, ?_⟩⟩⟩
  · exact ⟨_, exec_subReg x y s, writeResultFlag_sub s x (s.reg x) (s.reg y)⟩
  · exact ⟨_, exec_subnReg x y s, writeResultFlag_sub s x (s.reg y) (s.reg x)⟩

/-- Settles O28: neither result nor flag mentions `y`; the flag is the bit of the old value at the end it leaves by. -/
theorem shiftInPlace : Obligations.ShiftInPlace := by
  refine ⟨decodesAs_row (.shr 0 0), decodesAs_row (.shl 0 0), fun x y =>
    ⟨toNat_wordXYN_group8 x y 6#4, toNat_wordXYN_group8 x y 0xE#4, fun s => ⟨?_, ?_⟩⟩⟩
  · refine ⟨_, exec_shr x y s, fun hx => ?_, ?_, onlyRegs_writeResultFlag s x _ _⟩
    · rw [reg_writeResultFlag_result s hx, toNat_shiftRight_one]
    · rw [reg_writeResultFlag_vf, toNat_flagByte_lowBit]
  · refine ⟨_, exec_shl x y s, fun hx => ?_, ?_, onlyRegs_writeResultFlag s x _ _⟩
    · rw [reg_writeResultFlag_result s hx, toNat_shiftLeft_one]
    · rw [reg_writeResultFlag_vf, toNat_flagByte_highBit]

/-! ## Loads, logic and the addition of a byte: one register written -/

theorem exec_ldByte (x : Reg) (nn : Byte) (s : State) : exec (.ldByte x nn) s = .next (s.setReg x nn) := rfl

theorem exec_addByte (x : Reg) (nn : Byte) (s : State) :
    exec (.addByte x nn) s = .next (s.setReg x (s.reg x + nn)) := rfl

theorem exec_ldReg (x y : Reg) (s : State) : exec (.ldReg x y) s = .next (s.setReg x (s.reg y)) := rfl

theorem exec_orReg (x y : Reg) (s : State) : exec (.orReg x y) s = .next (s.setReg x (s.reg x ||| s.reg y)) := rfl

theorem exec_andReg (x y : Reg) (s : State) : exec (.andReg x y) s = .next (s.setReg x (s.reg x &&& s.reg y)) := rfl

theorem exec_xorReg (x y : Reg) (s : State) : exec (.xorReg x y) s = .next (s.setReg x (s.reg x ^^^ s.reg y)) := rfl

/-- Settles O23: both forms write one register. -/
theorem loadRegisterForms : Obligations.LoadRegisterForms := by
  refine ⟨decodesAs_row (.ldByte 0 0), decodesAs_row (.ldReg 0 0), fun x y nn =>
    ⟨toNat_wordXNN 0x6#4 x nn, toNat_wordXYN_group8 x y 0#4, fun s => ⟨?_, ?_⟩⟩⟩
  · exact ⟨_, exec_ldByte x nn s, reg_setReg_self s x _, onlyRegs_setReg s x _⟩
  · exact ⟨_, exec_ldReg x y s, reg_setReg_self s x _, onlyRegs_setReg s x _⟩

/-- Settles O24: each form writes one register, with the word operation whose bits are the operation on bits. -/
theorem logicForms : Obligations.LogicForms := by
  refine ⟨decodesAs_row (.orReg 0 0), decodesAs_row (.andReg 0 0), decodesAs_row (.xorReg 0 0), fun x y =>
    ⟨toNat_wordXYN_group8 x y 1#4, toNat_wordXYN_group8 x y 2#4, toNat_wordXYN_group8 x y 3#4, fun s =>
      ⟨⟨_, exec_orReg x y s, onlyRegs_setReg s x _, fun k => ?_⟩,
        ⟨_, exec_andReg x y s, onlyRegs_setReg s x _, fun k => ?_⟩,
        ⟨_, exec_xorReg x y s, onlyRegs_setReg s x _, fun k => ?_⟩⟩⟩⟩
  · rw [reg_setReg_self, BitVec.getLsbD_or]
  · rw [reg_setReg_self, BitVec.getLsbD_and]
  · rw [reg_setReg_self, BitVec.getLsbD_xor]

/-- Settles O25: one register is written, VF only where it is that register. -/
theorem addByteWrapsWithoutFlag : Obligations.AddByteWrapsWithoutFlag := by
  refine ⟨decodesAs_row (.addByte 0 0), fun x nn => ⟨toNat_wordXNN 0x7#4 x nn, fun s =>
    ⟨_, exec_addByte x nn s, ?_, onlyRegs_setReg s x _⟩⟩⟩
  rw [reg_setReg_self, BitVec.toNat_add]

end Sys2Proof.Machine

/-! PROOFS of the family 43_index_memory.md: the data address as a number, a run of bytes written at I, the two loads of
the index register and the decimal store. -/

namespace Sys2Proof.Machine

/-! ## Encoding -/

/-- The number of a canonical word of group 0xF, as its rules write it: the selector byte beside the group. -/
theorem toNat_wordXNN_groupF (x : Reg) (nn : Byte) :
    (wordXNN 0xF#4 x nn).toNat = 0xF000 + nn.toNat + x.val * 256 := by
  have h := toNat_wordXNN 0xF#4 x nn
  simp only [BitVec.toNat_ofNat] at h
  omega

/-! ## A run of bytes written at I (R136) -/

theorem toNat_dataAddr (s : State) (k : Nat) : (dataAddr s k).toNat = (s.i.toNat + k) % 4096 := by
  rw [dataAddr, BitVec.toNat_add, BitVec.toNat_ofNat, Nat.add_mod_mod]

theorem toNat_dataAddr_sub_i_of_lt (s : State) {k : Nat} (hk : k < Config.memSize) :
    (dataAddr s k - s.i).toNat = k := by
  have hdist : dataAddr s k - s.i = BitVec.ofNat 12 k := add_sub_cancel_left s.i _
  rw [hdist]
  exact Nat.mod_eq_of_lt hk

/-- Every address is the data address at its own distance from I. -/
theorem dataAddr_distance_from_i (s : State) (a : Addr) : dataAddr s (a - s.i).toNat = a := by
  rw [dataAddr, BitVec.ofNat_toNat, BitVec.setWidth_eq, add_sub_cancel]

theorem read_writeBytes_dataAddr (s : State) {bs : List Byte} (hlen : bs.length ≤ Config.memSize) {k : Nat} {b : Byte}
    (hk : bs[k]? = some b) : (s.mem.writeBytes s.i bs).read (dataAddr s k) = b := by
  have hlt : k < bs.length := (List.getElem?_eq_some_iff.mp hk).1
  rw [Memory.read_writeBytes _ _ _ _ hlen, toNat_dataAddr_sub_i_of_lt s (hlt.trans_le hlen), hk, Option.getD_some]

theorem read_writeBytes_of_ne_dataAddr (s : State) {bs : List Byte} (hlen : bs.length ≤ Config.memSize) {a : Addr}
    (ha : ∀ k, k < bs.length → a ≠ dataAddr s k) : (s.mem.writeBytes s.i bs).read a = s.mem.read a := by
  have hdist : bs.length ≤ (a - s.i).toNat := Nat.le_of_not_lt fun hlt => ha _ hlt (dataAddr_distance_from_i s a).symm
  rw [Memory.read_writeBytes _ _ _ _ hlen, List.getElem?_eq_none hdist, Option.getD_none]

/-! ## The decimal store -/

/-- `LD B,Vx` stores the digits of `V[x]` from I upward and writes memory only. -/
theorem exec_ldBVx (x : Reg) (s : State) :
    exec (.ldBVx x) s = .next (s.setMem (s.mem.writeBytes s.i (decimalDigits (s.reg x)))) := by
  rw [← dataAddr_zero]
  rfl

/-- A number up to the value of a byte fits a byte; the decimal digits are such numbers. -/
theorem toNat_ofNat_of_le (b : Byte) {n : Nat} (hn : n ≤ b.toNat) : (BitVec.ofNat 8 n).toNat = n :=
  Nat.mod_eq_of_lt (hn.trans_lt b.isLt)

/-- Settles O38: the three bytes of the run are the digits, and a digit of a byte fits a byte. -/
theorem storeDecimal : Obligations.StoreDecimal := by
  refine ⟨decodesAs_row (.ldBVx 0), fun x => ⟨toNat_wordXNN_groupF x 0x33#8, fun s => ?_⟩⟩
  have hlen : (decimalDigits (s.reg x)).length ≤ Config.memSize := by simp [decimalDigits, Config.memSize]
  have hdigit {k n : Nat} (hk : (decimalDigits (s.reg x))[k]? = some (BitVec.ofNat 8 n)) (hn : n ≤ (s.reg x).toNat) :
      ((s.mem.writeBytes s.i (decimalDigits (s.reg x))).read (dataAddr s k)).toNat = n := by
    rw [read_writeBytes_dataAddr s hlen hk, toNat_ofNat_of_le _ hn]
  exact ⟨_, exec_ldBVx x s, onlyMemory_setMem s _, hdigit rfl (Nat.div_le_self _ _),
    hdigit rfl ((Nat.mod_le _ _).trans (Nat.div_le_self _ _)), hdigit rfl (Nat.mod_le _ _), toNat_dataAddr s,
    fun _ ha => read_writeBytes_of_ne_dataAddr s hlen ha⟩

/-! ## The loads of the index register -/

theorem exec_ldI (nnn : Addr) (s : State) : exec (.ldI nnn) s = .next (s.setI nnn) := rfl

theorem exec_ldFVx (x : Reg) (s : State) : exec (.ldFVx x) s = .next (s.setI (fontAddr (s.reg x))) := rfl

/-- The largest font address is 5 * 255 = 1275, so nothing is cut off (R132). -/
theorem toNat_fontAddr (b : Byte) : (fontAddr b).toNat = 5 * b.toNat := by
  have hb := b.isLt
  exact Nat.mod_eq_of_lt (by omega)

/-- Settles O36: both instructions write I alone, and five times a byte is always an address. -/
theorem loadIndex : Obligations.LoadIndex := by
  refine ⟨decodesAs_row (.ldI 0), decodesAs_row (.ldFVx 0), fun nnn x =>
    ⟨toNat_wordNNN 0xA#4 nnn, toNat_wordXNN_groupF x 0x29#8, fun s => ⟨?_, ?_⟩⟩⟩
  · exact ⟨_, exec_ldI nnn s, rfl, onlyI_setI s nnn⟩
  · exact ⟨_, exec_ldFVx x s, toNat_fontAddr _, onlyI_setI s _⟩

end Sys2Proof.Machine

/-! PROOFS of the family 44_display.md: the flag write, what changes the display and what depends on it, the cleared
screen, the sprite pixel by pixel with its collision flag. -/

namespace Sys2Proof.Machine

/-! ## The flag write -/

theorem reg_setFlag_vf (s : State) (f : Bool) : (s.setFlag f).reg 15 = flagByte f := State.reg_setFlag s f regVF

theorem reg_setFlag_of_ne (s : State) (f : Bool) {r : Reg} (hr : r ≠ 15) : (s.setFlag f).reg r = s.reg r := by
  rw [State.reg_setFlag, if_neg (show r ≠ regVF from hr)]

theorem flagByte_eq_one_iff (f : Bool) : flagByte f = 1 ↔ f = true := by
  cases f <;> decide

theorem flagByte_eq_one_or_zero (f : Bool) : flagByte f = 1 ∨ flagByte f = 0 := by
  cases f <;> decide

/-! ## What changes the display and what depends on it (R145) -/

theorem Effect.disp_writer {i : Instr} {s t : State} (he : Effect s i t) (h : t.disp ≠ s.disp) :
    i = .cls ∨ ∃ x y n, i = .drw x y n := by
  cases he
  case clear hi => exact .inl hi
  case draw x y n hi => exact .inr ⟨x, y, n, hi⟩
  all_goals exact absurd rfl h

/-- An instruction other than DRW acts the same whatever the display is: the two states it answers differ in the display
only. -/
theorem exec_setDisp {i : Instr} (hi : ∀ x y n, i ≠ .drw x y n) {s t : State} (h : exec i s = .next t) (d : Display) :
    ∃ d', exec i (s.setDisp d) = .next (t.setDisp d') := by
  cases i
  case drw x y n => exact absurd rfl (hi x y n)
  case ret =>
    cases hs : s.stack with
    | nil =>
      cases (exec_ret_of_nil hs).symm.trans h
      exact ⟨d, exec_ret_of_nil hs⟩
    | cons a rest =>
      cases (exec_ret_of_cons hs).symm.trans h
      exact ⟨d, exec_ret_of_cons hs⟩
  case call nnn =>
    by_cases hs : s.stack.length < Config.stackDepth
    · cases (exec_call_of_lt nnn hs).symm.trans h
      exact ⟨d, exec_call_of_lt nnn hs⟩
    · cases (exec_call_of_ge nnn (Nat.le_of_not_lt hs)).symm.trans h
      exact ⟨d, exec_call_of_ge nnn (Nat.le_of_not_lt hs)⟩
  case ldVxK x =>
    cases h
    refine ⟨d, congrArg Host.Outcome.next ?_⟩
    rw [State.setDisp_keys]
    cases firstKey s.keys <;> rfl
  all_goals
    cases h
    exact ⟨_, rfl⟩

theorem exec_drw (x y : Reg) (n : BitVec 4) (s : State) :
    exec (.drw x y n) s = .next ((s.setDisp (drawn x y n s).1).setFlag (drawn x y n s).2) := rfl

/-- Two flags written over the same registers differ in VF only. -/
theorem eq_vf_of_reg_setFlag_ne {s s' : State} {f f' : Bool} {r : Reg} (hs : s'.reg r = s.reg r)
    (h : (s'.setFlag f').reg r ≠ (s.setFlag f).reg r) : r = 15 := by
  by_contra hr
  exact h (by rw [reg_setFlag_of_ne s' f' hr, reg_setFlag_of_ne s f hr, hs])

/-- Settles O21: of the effects two reach the display, and DRW alone reads it, for the flag it writes to VF. -/
theorem displayWriters : Obligations.DisplayWriters := by
  refine ⟨fun s t hstep hne => ?_, fun i s d => ?_⟩
  · obtain ⟨-, rfl⟩ | ⟨i, u, hd, hu, rfl⟩ := step_cases s t hstep
    · exact absurd (finish_disp _) hne
    · have hu_ne : u.disp ≠ (advance s).disp := by simpa [advance] using hne
      simpa [hd] using (effect_of_exec hu).disp_writer hu_ne
  · by_cases hi : ∃ x y n, i = .drw x y n
    · obtain ⟨x, y, n, rfl⟩ := hi
      exact ⟨_, _, exec_drw x y n s, exec_drw x y n (s.setDisp d),
        fun r hr => ⟨eq_vf_of_reg_setFlag_ne rfl hr, x, y, n, rfl⟩, rfl, rfl, rfl, rfl, rfl, rfl, rfl⟩
    · have hother : ∀ x y n, i ≠ .drw x y n := fun x y n heq => hi ⟨x, y, n, heq⟩
      obtain ⟨t, ht⟩ := exec_answers i s
      obtain ⟨d', ht'⟩ := exec_setDisp hother ht d
      exact ⟨t, t.setDisp d', ht, ht', fun _ hr => absurd rfl hr, rfl, rfl, rfl, rfl, rfl, rfl, rfl⟩

/-! ## The screen cleared -/

/-- Nothing but the display and general registers in `dests` changed. -/
def OnlyDisplayAndRegs (dests : List Reg) (s t : State) : Prop :=
  SameRegsBut dests s t ∧ t.i = s.i ∧ t.pc = s.pc ∧ SameTimers s t ∧ t.stack = s.stack ∧ SameMemory s t ∧
    t.result = s.result ∧ SameInputs s t

theorem onlyDisplayAndRegs_setDisp (s : State) (d : Display) : OnlyDisplayAndRegs [] s (s.setDisp d) :=
  ⟨fun _ _ => rfl, rfl, rfl, ⟨rfl, rfl⟩, rfl, fun _ => rfl, rfl, rfl, rfl⟩

theorem onlyDisplayAndRegs_setDisp_setFlag (s : State) (d : Display) (f : Bool) :
    OnlyDisplayAndRegs [15] s ((s.setDisp d).setFlag f) := by
  refine ⟨fun r hr => ?_, rfl, rfl, ⟨rfl, rfl⟩, rfl, fun _ => rfl, rfl, rfl, rfl⟩
  rw [reg_setFlag_of_ne _ f (List.ne_of_not_mem_cons hr), State.setDisp_reg]

theorem exec_cls (s : State) : exec .cls s = .next (s.setDisp Display.clear) := rfl

/-- Settles O42: the display alone is replaced, by the one whose cells are all dark. -/
theorem clearScreen : Obligations.ClearScreen :=
  ⟨decodesAs_row .cls, rfl, fun s => ⟨_, exec_cls s, Display.cell_clear, onlyDisplayAndRegs_setDisp s _⟩⟩

/-! ## The sprite, pixel by pixel (R141 to R144) -/

/-- The cell under a pixel of the sprite that falls in the grid: whether the pixel's own bit is 1. -/
theorem spriteLit_pixel {cx cy n : Nat} (sprite : Nat → Byte) {r c : Nat} (hr : r < n) (hc : c < 8)
    (hcol : cx + c ≤ 63) (hrow : cy + r ≤ 31) :
    spriteLit cx cy n sprite (cy + r) (cx + c) = (sprite r).getLsbD (7 - c) := by
  have hgrid : cy ≤ cy + r ∧ cy + r < cy + n ∧ cx ≤ cx + c ∧ cx + c < cx + 8 ∧ cx + c ≤ 63 ∧ cy + r ≤ 31 := by omega
  rw [spriteLit, decide_eq_true hgrid, Bool.true_and, Nat.add_sub_cancel_left, Nat.add_sub_cancel_left]

/-- A cell under an applied bit is the cell of a pixel `(c, r)` in the grid whose bit is 1. -/
theorem exists_pixel_of_spriteLit {cx cy n : Nat} {sprite : Nat → Byte} {row col : Nat}
    (h : spriteLit cx cy n sprite row col = true) :
    ∃ r c, (row = cy + r ∧ col = cx + c) ∧ r < n ∧ c < 8 ∧ cx + c ≤ 63 ∧ cy + r ≤ 31 ∧
      (sprite r).getLsbD (7 - c) = true := by
  obtain ⟨hdecide, hbit⟩ := Bool.and_eq_true_iff.mp h
  have hgrid := of_decide_eq_true hdecide
  exact ⟨row - cy, col - cx, by omega, by omega, by omega, by omega, by omega, hbit⟩

/-- Is the cell `(row, col)` under an applied bit of 1 of the sprite that DRW draws? -/
def drawnLit (x y : Reg) (n : BitVec 4) (s : State) (row col : Nat) : Bool :=
  spriteLit (s.reg x).toNat (s.reg y).toNat n.toNat (fun r => s.mem.read (dataAddr s r)) row col

theorem drawn_cell (x y : Reg) (n : BitVec 4) (s : State) (row col : Nat) :
    (drawn x y n s).1.cell row col = (s.disp.cell row col ^^ drawnLit x y n s row col) :=
  (blit_spec _ _ _ _ _).1 row col

theorem drawn_flag_iff_drawnLit (x y : Reg) (n : BitVec 4) (s : State) :
    (drawn x y n s).2 = true ↔ ∃ row col, drawnLit x y n s row col = true ∧ s.disp.cell row col = true :=
  (blit_spec _ _ _ _ _).2

theorem drawn_cell_pixel (x y : Reg) (n : BitVec 4) (s : State) {r c : Nat} (hr : r < n.toNat) (hc : c < 8)
    (hcol : (s.reg x).toNat + c ≤ 63) (hrow : (s.reg y).toNat + r ≤ 31) :
    (drawn x y n s).1.cell ((s.reg y).toNat + r) ((s.reg x).toNat + c) =
      (s.disp.cell ((s.reg y).toNat + r) ((s.reg x).toNat + c) ^^ (s.mem.read (dataAddr s r)).getLsbD (7 - c)) := by
  rw [drawn_cell, drawnLit, spriteLit_pixel _ hr hc hcol hrow]

theorem drawn_cell_of_uncovered (x y : Reg) (n : BitVec 4) (s : State) {row col : Nat}
    (h : ∀ r c, r < n.toNat → c < 8 → ¬ (row = (s.reg y).toNat + r ∧ col = (s.reg x).toNat + c)) :
    (drawn x y n s).1.cell row col = s.disp.cell row col := by
  have hunlit : drawnLit x y n s row col = false := by
    refine Bool.eq_false_iff.mpr fun hlit => ?_
    obtain ⟨r, c, hat, hr, hc, -⟩ := exists_pixel_of_spriteLit hlit
    exact h r c hr hc hat
  rw [drawn_cell, hunlit, Bool.xor_false]

/-- The collision detector: some pixel of 1 in the grid fell on a lit cell. -/
theorem drawn_flag_iff (x y : Reg) (n : BitVec 4) (s : State) :
    (drawn x y n s).2 = true ↔
      ∃ r c, r < n.toNat ∧ c < 8 ∧ (s.reg x).toNat + c ≤ 63 ∧ (s.reg y).toNat + r ≤ 31 ∧
        (s.mem.read (dataAddr s r)).getLsbD (7 - c) = true ∧
        s.disp.cell ((s.reg y).toNat + r) ((s.reg x).toNat + c) = true := by
  refine (drawn_flag_iff_drawnLit x y n s).trans ⟨?_, ?_⟩
  · rintro ⟨row, col, hlit, hcell⟩
    obtain ⟨r, c, ⟨rfl, rfl⟩, hr, hc, hcol, hrow, hbit⟩ := exists_pixel_of_spriteLit hlit
    exact ⟨r, c, hr, hc, hcol, hrow, hbit, hcell⟩
  · rintro ⟨r, c, hr, hc, hcol, hrow, hbit, hcell⟩
    exact ⟨_, _, (spriteLit_pixel _ hr hc hcol hrow).trans hbit, hcell⟩

/-- Settles O43: the drawn display pixel by pixel, then the flag, which is all that is written besides it. -/
theorem drawSprite : Obligations.DrawSprite := by
  refine ⟨decodesAs_row (.drw 0 0 0), fun x y n => ⟨toNat_wordXYN 0xD#4 x y n, fun s =>
    ⟨_, exec_drw x y n s, fun r c => drawn_cell_pixel x y n s, fun row col => drawn_cell_of_uncovered x y n s,
      ?_, ?_, onlyDisplayAndRegs_setDisp_setFlag s _ _⟩⟩⟩
  · rw [reg_setFlag_vf]
    exact flagByte_eq_one_or_zero _
  · rw [reg_setFlag_vf, flagByte_eq_one_iff, drawn_flag_iff]

end Sys2Proof.Machine

/-! PROOFS of the family 45_keypad_timers.md: the frame of a timer write, a register and the timers at the end of a step
that does not raise, the copies between a register and a timer. -/

namespace Sys2Proof.Machine

/-! ## The timer write -/

/-- Nothing but the timers changed. -/
def OnlyTimers (s t : State) : Prop :=
  SameRegsBut [] s t ∧ t.i = s.i ∧ t.pc = s.pc ∧ t.stack = s.stack ∧ SameMemory s t ∧ SameDisplay s t ∧
    t.result = s.result ∧ SameInputs s t

theorem onlyTimers_setDt (s : State) (b : Byte) : OnlyTimers s (s.setDt b) :=
  ⟨fun _ _ => rfl, rfl, rfl, rfl, fun _ => rfl, fun _ _ => rfl, rfl, rfl, rfl⟩

theorem onlyTimers_setSt (s : State) (b : Byte) : OnlyTimers s (s.setSt b) :=
  ⟨fun _ _ => rfl, rfl, rfl, rfl, fun _ => rfl, fun _ _ => rfl, rfl, rfl, rfl⟩

theorem exec_ldVxDt (x : Reg) (s : State) : exec (.ldVxDt x) s = .next (s.setReg x s.dt) := rfl

theorem exec_ldDtVx (x : Reg) (s : State) : exec (.ldDtVx x) s = .next (s.setDt (s.reg x)) := rfl

theorem exec_ldStVx (x : Reg) (s : State) : exec (.ldStVx x) s = .next (s.setSt (s.reg x)) := rfl

/-! ## The end of a step -/

theorem finish_reg (s : State) (q : Reg) : (finish s).reg q = s.reg q := congrArg (·[q]) (finish_v s)

/-- A step that does not raise ends with the decay of both timers, acting on what the instruction left in them (R96). -/
theorem finish_timers_toNat_of_ok {s : State} (h : s.result = .ok) :
    (finish s).dt.toNat = s.dt.toNat - 1 ∧ (finish s).st.toNat = s.st.toNat - 1 := by
  rw [finish_dt_toNat, finish_st_toNat, h]
  exact ⟨rfl, rfl⟩

/-- Settles O46: each form is one copy, made from the advanced state; its result is Ok, so the decay acts on the timer
after the copy, while the register keeps the value from before the decay. -/
theorem timerCopies : Obligations.TimerCopies := by
  refine ⟨decodesAs_row (.ldVxDt 0), decodesAs_row (.ldDtVx 0), decodesAs_row (.ldStVx 0), fun x =>
    ⟨toNat_wordXNN_groupF x 0x07#8, toNat_wordXNN_groupF x 0x15#8, toNat_wordXNN_groupF x 0x18#8,
      fun s => ⟨?_, ?_, ?_⟩, fun s hd => ?_, fun s hd => ?_, fun s hd => ?_⟩⟩
  · exact ⟨_, exec_ldVxDt x s, reg_setReg_self s x _, onlyRegs_setReg s x _⟩
  · exact ⟨_, exec_ldDtVx x s, rfl, rfl, onlyTimers_setDt s _⟩
  · exact ⟨_, exec_ldStVx x s, rfl, rfl, onlyTimers_setSt s _⟩
  · have hreg : (finish ((advance s).setReg x s.dt)).reg x = s.dt := by rw [finish_reg, reg_setReg_self]
    exact ⟨_, step_of_decode s _ _ hd (exec_ldVxDt x (advance s)), hreg, (finish_timers_toNat_of_ok rfl).1⟩
  · exact ⟨_, step_of_decode s _ _ hd (exec_ldDtVx x (advance s)), (finish_timers_toNat_of_ok rfl).1⟩
  · exact ⟨_, step_of_decode s _ _ hd (exec_ldStVx x (advance s)), (finish_timers_toNat_of_ok rfl).2⟩

end Sys2Proof.Machine

/-! PROOFS of the family 60_exceptions.md: every step answers, and the programs `load` refuses. -/

namespace Sys2Proof.Machine

/-- Settles O12, by the decode of the fetched word: an illegal word raises, and `exec` answers for every other. -/
theorem stepAlwaysAnswers : Obligations.StepAlwaysAnswers := by
  intro s
  cases hd : decodeWord (fetch s) with
  | error e =>
    cases e
    exact ⟨_, step_of_illegal s hd⟩
  | ok i =>
    obtain ⟨u, hu⟩ := exec_answers i (advance s)
    exact ⟨_, step_of_decode s i u hd hu⟩

/-- `load` refuses exactly the programs that do not fit, with one fault. -/
theorem load_eq_fault_iff (prog : List Byte) (s : State) (kind : Fault) :
    load prog s = .fault kind ↔ Config.maxProgram < prog.length ∧ kind = .programTooLarge := by
  unfold load programFits
  by_cases h : prog.length ≤ Config.maxProgram
  · simp [h]
  · simp [h, Nat.lt_of_not_le h, eq_comm]

/-- Settles O51: the refusal and the success of `load` are told apart by the length alone. -/
theorem loadRefusesTooLarge : Obligations.LoadRefusesTooLarge := by
  refine fun prog s => ⟨?_, fun ⟨t, ht⟩ => ((load_eq_next_iff prog s t).mp ht).1, fun hfit => ?_⟩
  · exact (load_eq_fault_iff prog s _).trans (and_iff_left rfl)
  · exact ⟨_, (load_eq_next_iff prog s _).mpr ⟨hfit, rfl⟩⟩

end Sys2Proof.Machine

/-! PROOFS of the family that cuts across the spec's files: the bits the decode tree does not examine, the fetch after a
store, the step that raises and the step that completes, the block store and load, the font, the sprite drawn twice, the
keypad, the end of a program. -/

namespace Sys2Proof

/-! ## Bits the decode tree does not examine (R77, D11) -/

/-- Two words that agree under a mask agree in every field the mask keeps whole. -/
theorem extractLsb'_eq_of_and_eq_and {mask a b : Word} (h : a &&& mask = b &&& mask) (start len : Nat)
    (hm : mask.extractLsb' start len = BitVec.allOnes len) : a.extractLsb' start len = b.extractLsb' start len :=
  (extractLsb'_of_and_eq h start len hm).trans (extractLsb'_of_and_eq rfl start len hm).symm

theorem decodeWord_of_group0 {op : Word} (hg : fieldGroup op = 0x0#4) : decodeWord op = decodeGroup0 op := by
  simp [decodeWord, hg]

theorem decodeWord_of_group5 {op : Word} (hg : fieldGroup op = 0x5#4) :
    decodeWord op = .ok (.seReg (fieldX op) (fieldY op)) := by
  simp [decodeWord, hg]

theorem decodeWord_of_group9 {op : Word} (hg : fieldGroup op = 0x9#4) :
    decodeWord op = .ok (.sneReg (fieldX op) (fieldY op)) := by
  simp [decodeWord, hg]

theorem decodeWord_of_groupE {op : Word} (hg : fieldGroup op = 0xE#4) : decodeWord op = decodeGroupE op := by
  simp [decodeWord, hg]

theorem decodeGroup0_congr {op op' : Word} (hn : fieldN op = fieldN op') : decodeGroup0 op = decodeGroup0 op' := by
  rw [decodeGroup0, decodeGroup0, hn]

theorem decodeGroupE_congr {op op' : Word} (hx : fieldX op = fieldX op') (hn : fieldN op = fieldN op') :
    decodeGroupE op = decodeGroupE op' := by
  rw [decodeGroupE, decodeGroupE, hx, hn]

/-- A word that agrees with one of group 0 in group and selector decodes like it. -/
theorem group0_dependsOnly {op op' : Word} (hg : fieldGroup op = 0x0#4) :
    Machine.DecodeDependsOnly 0xF00F#16 op op' := by
  intro h
  have hg' : fieldGroup op = fieldGroup op' := extractLsb'_eq_of_and_eq_and h 12 4 rfl
  have hn : fieldN op = fieldN op' := extractLsb'_eq_of_and_eq_and h 0 4 rfl
  rw [decodeWord_of_group0 hg, decodeWord_of_group0 (hg' ▸ hg), decodeGroup0_congr hn]

/-- Groups 5 and 9 have no selector. -/
theorem group5_or_9_dependsOnly {op op' : Word} (hg : fieldGroup op = 0x5#4 ∨ fieldGroup op = 0x9#4) :
    Machine.DecodeDependsOnly 0xFFF0#16 op op' := by
  intro h
  have hg' : fieldGroup op = fieldGroup op' := extractLsb'_eq_of_and_eq_and h 12 4 rfl
  have hx : fieldX op = fieldX op' := congrArg BitVec.toFin (extractLsb'_eq_of_and_eq_and h 8 4 rfl)
  have hy : fieldY op = fieldY op' := congrArg BitVec.toFin (extractLsb'_eq_of_and_eq_and h 4 4 rfl)
  obtain hg | hg := hg
  · rw [decodeWord_of_group5 hg, decodeWord_of_group5 (hg' ▸ hg), hx, hy]
  · rw [decodeWord_of_group9 hg, decodeWord_of_group9 (hg' ▸ hg), hx, hy]

/-- A word that agrees with one of group E in group, `x` and selector decodes like it. -/
theorem groupE_dependsOnly {op op' : Word} (hg : fieldGroup op = 0xE#4) :
    Machine.DecodeDependsOnly 0xFF0F#16 op op' := by
  intro h
  have hg' : fieldGroup op = fieldGroup op' := extractLsb'_eq_of_and_eq_and h 12 4 rfl
  have hx : fieldX op = fieldX op' := congrArg BitVec.toFin (extractLsb'_eq_of_and_eq_and h 8 4 rfl)
  have hn : fieldN op = fieldN op' := extractLsb'_eq_of_and_eq_and h 0 4 rfl
  rw [decodeWord_of_groupE hg, decodeWord_of_groupE (hg' ▸ hg), decodeGroupE_congr hx hn]

/-- Settles O7: in each group the decoder reads only fields the mask keeps whole, and neither shift reads `y`. -/
theorem unexaminedBitsIgnored : Obligations.UnexaminedBitsIgnored := by
  refine ⟨fun op op' => group0_dependsOnly, fun op op' => group5_or_9_dependsOnly, fun op op' => groupE_dependsOnly,
    rfl, fun x y y' s => ⟨?_, ?_⟩⟩
  · rw [Machine.exec_shr, Machine.exec_shr]
  · rw [Machine.exec_shl, Machine.exec_shl]

/-- Settles O1, by evaluation of the decoder on the twelve words. -/
theorem specWordsDecode : Obligations.SpecWordsDecode :=
  ⟨rfl, rfl, rfl, rfl, rfl, rfl, rfl, rfl, rfl, rfl, rfl, rfl⟩

/-! ## A word and its bytes -/

theorem wordOfBytes_extractLsb' (op : Word) : wordOfBytes (op.extractLsb' 8 8) (op.extractLsb' 0 8) = op := by
  have hlt := op.isLt
  apply BitVec.eq_of_toNat_eq
  rw [Machine.toNat_wordOfBytes, BitVec.extractLsb'_toNat, BitVec.extractLsb'_toNat, Nat.shiftRight_eq_div_pow,
    Nat.shiftRight_eq_div_pow]
  omega

end Sys2Proof

namespace Sys2Proof.Machine

/-! ## The fetch after a store (R61, D6) -/

/-- The two addresses of an instruction differ, also where the second wraps to 0. -/
theorem addr_succ_ne (a : Addr) : a + 1 ≠ a := by bv_omega

theorem fetch_setMem (s : State) (m : Memory) : fetch (s.setMem m) = wordOfBytes (m.read s.pc) (m.read (s.pc + 1)) :=
  rfl

theorem fetch_write_pc (s : State) (b : Byte) :
    fetch (s.setMem (s.mem.write s.pc b)) = wordOfBytes b (s.mem.read (s.pc + 1)) := by
  rw [fetch_setMem, Memory.read_write, if_pos rfl, Memory.read_write, if_neg (addr_succ_ne s.pc)]

theorem fetch_write_pc_succ (s : State) (b : Byte) :
    fetch (s.setMem (s.mem.write (s.pc + 1) b)) = wordOfBytes (s.mem.read s.pc) b := by
  rw [fetch_setMem, Memory.read_write, if_neg (addr_succ_ne s.pc).symm, Memory.read_write, if_pos rfl]

/-- Placing a word stores its high byte at `pc` and then its low byte at `pc + 1`. -/
theorem fetch_placeWord (s : State) (op : Word) : fetch (s.placeWord op) = op :=
  calc fetch (s.placeWord op)
      = wordOfBytes ((s.mem.write s.pc (op.extractLsb' 8 8)).read s.pc) (op.extractLsb' 0 8) :=
        fetch_write_pc_succ (s.setMem (s.mem.write s.pc (op.extractLsb' 8 8))) _
    _ = op := by rw [Memory.read_write, if_pos rfl, wordOfBytes_extractLsb']

/-- Settles O9: the two bytes of the instruction lie at different addresses, so each store replaces its own. -/
theorem storeSeenByNextFetch : Obligations.StoreSeenByNextFetch :=
  ⟨fetch_write_pc, fetch_write_pc_succ, fetch_placeWord⟩

/-! ## The step that raises (R97, D9) -/

/-- An instruction that starts with the result Ok and ends with a fault has raised it, and done nothing else. -/
theorem Effect.eq_raise {i : Instr} {s t : State} {kind : Fault} (he : Effect s i t) (hs : s.result = .ok)
    (ht : t.result = .fault kind) : t = s.raise kind := by
  cases he
  case raise k =>
    cases ht
    rfl
  case wait => cases ht
  all_goals cases hs.symm.trans ht

/-- A step that ends with a fault is the advance and the raise, whichever part raises. -/
theorem eq_raise_of_step_fault {s t : State} {kind : Fault} (h : step s = .next t) (ht : t.result = .fault kind) :
    t = finish ((advance s).raise kind) := by
  obtain ⟨-, rfl⟩ | ⟨i, u, -, hu, rfl⟩ := step_cases s t h
  · cases ((finish_result _).symm.trans ht : StepResult.fault .unimplementedOpcode = .fault kind)
    rfl
  · rw [finish_result] at ht
    rw [(effect_of_exec hu).eq_raise (advance_result s) ht]

/-- Settles O14: the raise leaves what the advance made of the state, and `finish` decays nothing after it. -/
theorem raisingStepLeavesOnlyPcAdvanced : Obligations.RaisingStepLeavesOnlyPcAdvanced := by
  intro s t kind hstep hfault
  obtain rfl := eq_raise_of_step_fault hstep hfault
  refine ⟨?_, sameCore_finish_raise_advance s kind⟩
  rw [finish_pc]
  exact BitVec.toNat_add s.pc 2

/-! ## The step that completes (R96, D19) -/

/-- The decay at the end of a step that does not raise, a blocked key-wait included. -/
theorem finish_timers_toNat_of_noFault {s : State} (h : s.NoFault) :
    (finish s).dt.toNat = s.dt.toNat - 1 ∧ (finish s).st.toNat = s.st.toNat - 1 := by
  have hnot : ¬ s.result.isFault = true := Bool.eq_false_iff.mp h
  rw [finish_dt_toNat, finish_st_toNat, if_neg hnot, if_neg hnot]
  exact ⟨rfl, rfl⟩

/-- A step that does not raise runs an instruction and ends with the decay of what it left in the timers. -/
theorem decayed_of_step_noFault {s t : State} (h : step s = .next t) (ht : t.NoFault) :
    ∃ i u, decodeWord (fetch s) = .ok i ∧ exec i (advance s) = .next u ∧
      t.dt.toNat = u.dt.toNat - 1 ∧ t.st.toNat = u.st.toNat - 1 := by
  obtain ⟨-, rfl⟩ | ⟨i, u, hd, hu, rfl⟩ := step_cases s t h
  · cases ht
  · rw [State.NoFault, finish_result] at ht
    exact ⟨i, u, hd, hu, finish_timers_toNat_of_noFault ht⟩

theorem Effect.dt_eq {i : Instr} {s t : State} (he : Effect s i t) (hi : ∀ x, i ≠ .ldDtVx x) : t.dt = s.dt := by
  by_contra hchanged
  obtain ⟨x, rfl⟩ := he.dt_writer hchanged
  exact hi x rfl

theorem Effect.st_eq {i : Instr} {s t : State} (he : Effect s i t) (hi : ∀ x, i ≠ .ldStVx x) : t.st = s.st := by
  by_contra hchanged
  obtain ⟨x, rfl⟩ := he.st_writer hchanged
  exact hi x rfl

/-- Settles O15: the instruction has written the timer before the decay if it is the timer's one writer, and left it as
it was otherwise. -/
theorem timersDecayEveryCompletedStep : Obligations.TimersDecayEveryCompletedStep := by
  intro s t hstep hok
  obtain ⟨i, u, hd, hu, hdt, hst⟩ := decayed_of_step_noFault hstep hok
  have he := effect_of_exec hu
  rw [hd, hdt, hst]
  refine ⟨?_, fun hne => ?_, ?_, fun hne => ?_⟩
  · rintro x ⟨⟩
    cases hu
    rfl
  · have hkept : u.dt = s.dt := he.dt_eq fun x hi => hne x (congrArg Except.ok hi)
    rw [hkept]
  · rintro x ⟨⟩
    cases hu
    rfl
  · have hkept : u.st = s.st := he.st_eq fun x hi => hne x (congrArg Except.ok hi)
    rw [hkept]

/-! ## The block store and the block load (R134, R135) -/

/-- At most sixteen bytes are stored, so that a block store never reaches around the address space. -/
theorem length_regsUpTo_le_memSize (s : State) (x : Reg) : (regsUpTo s x).length ≤ Config.memSize := by
  rw [length_regsUpTo, Config.memSize]
  omega

/-- Settles O39: `V[0]` to `V[x]` are the run of bytes written at I. -/
theorem storeRegisters : Obligations.StoreRegisters := by
  refine ⟨decodesAs_row (.ldMemVx 0), fun x => ⟨toNat_wordXNN_groupF x 0x55#8, fun s =>
    ⟨_, exec_ldMemVx x s, onlyMemory_setMem s _, fun r => read_writeBytes_regsUpTo s x r, toNat_dataAddr s,
      fun a ha => ?_⟩⟩⟩
  refine read_writeBytes_of_ne_dataAddr s (length_regsUpTo_le_memSize s x) fun k hk => ha k ?_
  rw [length_regsUpTo] at hk
  exact Nat.le_of_lt_succ hk

theorem reg_loadRegs_of_le (s : State) {x r : Reg} (hr : r ≤ x) :
    (s.setRegs (loadRegs s.mem s.i (x.val + 1) s.v)).reg r = s.mem.read (dataAddr s r.val) := by
  rw [State.reg_setRegs_loadRegs, if_pos (Nat.lt_succ_of_le hr)]
  rfl

theorem reg_loadRegs_of_not_le (s : State) {x r : Reg} (hr : ¬ r ≤ x) :
    (s.setRegs (loadRegs s.mem s.i (x.val + 1) s.v)).reg r = s.reg r := by
  rw [State.reg_setRegs_loadRegs, if_neg fun hlt => hr (Nat.le_of_lt_succ hlt)]

theorem onlyRegs_loadRegs (s : State) (x : Reg) :
    OnlyRegs ((List.finRange 16).filter (fun r => decide (r ≤ x))) s
      (s.setRegs (loadRegs s.mem s.i (x.val + 1) s.v)) := by
  refine ⟨fun r hr => reg_loadRegs_of_not_le s ?_, rfl, rfl, ⟨rfl, rfl⟩, rfl, fun _ => rfl, fun _ _ => rfl, rfl, rfl,
    rfl⟩
  simpa using hr

/-- Settles O40: the registers up to `x` are read from the data addresses, the others are not reached. -/
theorem loadRegisters : Obligations.LoadRegisters :=
  ⟨decodesAs_row (.ldVxMem 0), fun x => ⟨toNat_wordXNN_groupF x 0x65#8, fun s =>
    ⟨_, exec_ldVxMem x s, fun _ hr => reg_loadRegs_of_le s hr, onlyRegs_loadRegs s x⟩⟩⟩

/-! ## The index register: the sum and the font (R131, R132) -/

/-- A byte as an address operand keeps its value. -/
theorem toNat_addrOfByte (b : Byte) : (addrOfByte b).toNat = b.toNat :=
  Nat.mod_eq_of_lt (b.isLt.trans (by decide))

theorem exec_addIVx (x : Reg) (s : State) : exec (.addIVx x) s = .next (s.setI (s.i + addrOfByte (s.reg x))) := rfl

/-- Settles O37: the sum of two addresses is the sum of the numbers modulo 4096, and I alone is written. -/
theorem addToIndex : Obligations.AddToIndex := by
  refine ⟨decodesAs_row (.addIVx 0), fun x => ⟨toNat_wordXNN_groupF x 0x1E#8, fun s =>
    ⟨_, exec_addIVx x s, ?_, onlyI_setI s _⟩⟩⟩
  rw [State.setI_i, BitVec.toNat_add, toNat_addrOfByte]

/-- The table of the rows lists the font in runs of five bytes. -/
theorem digitRows_eq_resetBytes :
    ∀ d < 16, digitRows[d]? = some ((List.range 5).map fun k => resetByte (5 * d + k)) := by decide

/-- A row of a digit's sprite lies below 0x050, where nothing wraps. -/
theorem toNat_dataAddr_fontAddr (s : State) {b : Byte} {k : Nat} (hb : b.toNat < 16) (hk : k < 5) :
    (dataAddr (s.setI (fontAddr b)) k).toNat = 5 * b.toNat + k := by
  rw [toNat_dataAddr, State.setI_i, toNat_fontAddr]
  omega

/-- Settles O41: the five rows are font bytes, which by hypothesis still read as after reset. -/
theorem fontSpriteOfDigit : Obligations.FontSpriteOfDigit := by
  intro x s rows hfont hrows
  have hdigit : (s.reg x).toNat < 16 := (List.getElem?_eq_some_iff.mp hrows).1
  rw [digitRows_eq_resetBytes _ hdigit, Option.some_inj] at hrows
  refine ⟨_, exec_ldFVx x s, Eq.trans (List.map_congr_left fun k hk => ?_) hrows⟩
  have hrow : k < 5 := List.mem_range.mp hk
  have haddr := toNat_dataAddr_fontAddr s hdigit hrow
  have hbelow : (dataAddr (s.setI (fontAddr (s.reg x))) k).toNat < 0x050 := by omega
  calc s.mem.read (dataAddr (s.setI (fontAddr (s.reg x))) k)
      = resetByte (dataAddr (s.setI (fontAddr (s.reg x))) k).toNat := hfont _ hbelow
    _ = resetByte (5 * (s.reg x).toNat + k) := by rw [haddr]

/-! ## The sprite drawn twice (R142 (e)) -/

/-- Which cells a sprite lights depends on its place, on I and on memory, and DRW leaves these as they are unless a
coordinate is VF. -/
theorem drawnLit_after_drw {x y : Reg} (hx : x ≠ 15) (hy : y ≠ 15) (n : BitVec 4) (s : State) (d : Display) (f : Bool) :
    drawnLit x y n ((s.setDisp d).setFlag f) = drawnLit x y n s := by
  unfold drawnLit
  rw [reg_setFlag_of_ne _ f hx, reg_setFlag_of_ne _ f hy]
  rfl

/-- Settles O44: both draws exclusive-or the same cells, and exclusive-or is its own inverse. -/
theorem drawTwiceRestores : Obligations.DrawTwiceRestores := by
  intro x y n s s1 s2 hx hy hfirst hsecond row col
  cases (exec_drw x y n s).symm.trans hfirst
  cases (exec_drw x y n _).symm.trans hsecond
  rw [State.setFlag_disp, State.setDisp_disp, drawn_cell, drawnLit_after_drw hx hy, State.setFlag_disp,
    State.setDisp_disp, drawn_cell, Bool.xor_assoc, Bool.xor_self, Bool.xor_false]

/-! ## The keypad (R150, R151, R153, R156) -/

/-- The number of a canonical word of group 0xE, as its rules write it: the selector byte beside the group. -/
theorem toNat_wordXNN_groupE (x : Reg) (nn : Byte) :
    (wordXNN 0xE#4 x nn).toNat = 0xE000 + nn.toNat + x.val * 256 := by
  have h := toNat_wordXNN 0xE#4 x nn
  simp only [BitVec.toNat_ofNat] at h
  omega

theorem pressed_eq_decide (keys : BitVec 16) (k : Byte) :
    pressed keys k = decide (k.toNat ≤ 15 ∧ keys.getLsbD k.toNat = true) := by
  simp [pressed]

theorem exec_skp (x : Reg) (s : State) : exec (.skp x) s =
    .next (skipIf (decide ((s.reg x).toNat ≤ 15 ∧ s.keys.getLsbD (s.reg x).toNat = true)) s) := by
  rw [← pressed_eq_decide]
  rfl

theorem exec_sknp (x : Reg) (s : State) : exec (.sknp x) s =
    .next (skipIf (decide ¬ ((s.reg x).toNat ≤ 15 ∧ s.keys.getLsbD (s.reg x).toNat = true)) s) := by
  rw [decide_not, ← pressed_eq_decide]
  rfl

/-- Settles O45: both instructions are the skip, on the key predicate and on its negation. -/
theorem skipOnKey : Obligations.SkipOnKey := by
  refine ⟨decodesAs_row (.skp 0), decodesAs_row (.sknp 0), fun x =>
    ⟨toNat_wordXNN_groupE x 0x9E#8, toNat_wordXNN_groupE x 0xA1#8, fun s => ⟨?_, ?_⟩⟩⟩
  · exact ⟨_, exec_skp x s, onlyPc_skipIf s _, skipIf_pc_toNat _ s⟩
  · exact ⟨_, exec_sknp x s, onlyPc_skipIf s _, skipIf_not_pc_toNat _ s⟩

theorem exec_ldVxK_of_firstKey (x : Reg) {s : State} {k : Nat} (h : firstKey s.keys = some k) :
    exec (.ldVxK x) s = .next (s.setReg x (BitVec.ofNat 8 k)) := by
  simp only [exec, execLdVxK, takeKey, h]

theorem exec_ldVxK_of_no_key (x : Reg) {s : State} (h : s.keys = 0) :
    exec (.ldVxK x) s = .next ((s.setPc (s.pc - 2)).setResult .waitingForKey) := by
  simp only [exec, execLdVxK, takeKey, (firstKey_eq_none s.keys).mpr h]

theorem exists_firstKey_of_ne_zero {keys : BitVec 16} (h : keys ≠ 0) : ∃ k, firstKey keys = some k :=
  Option.ne_none_iff_exists'.mp fun hnone => h ((firstKey_eq_none keys).mp hnone)

/-- Settles O47: a nonzero key vector has a first key, and its number fits a byte. -/
theorem keyWaitTakesLowestKey : Obligations.KeyWaitTakesLowestKey := by
  refine ⟨decodesAs_row (.ldVxK 0), fun x => ⟨toNat_wordXNN_groupF x 0x0A#8, fun s hs => ?_⟩⟩
  obtain ⟨k, hk⟩ := exists_firstKey_of_ne_zero hs
  obtain ⟨hlt, hpressed, hlowest⟩ := (firstKey_eq_some s.keys k).mp hk
  have hreg : ((s.setReg x (BitVec.ofNat 8 k)).reg x).toNat = k := by
    rw [reg_setReg_self]
    exact Nat.mod_eq_of_lt (hlt.trans (by decide))
  refine ⟨_, exec_ldVxK_of_firstKey x hk, onlyRegs_setReg s x _, ?_⟩
  rw [hreg]
  exact ⟨Nat.le_of_lt_succ hlt, hpressed, hlowest⟩

/-! ## The step that leaves all but the timers as it was: the blocked key-wait and the jump to itself -/

/-- A step that ends with the core it began with, and does not raise, only decays the timers: it fetches its own word
again. -/
theorem idle_finish {s u : State} (hcore : SameCore s u) (hok : u.NoFault) :
    fetch (finish u) = fetch s ∧ (finish u).dt.toNat = s.dt.toNat - 1 ∧ (finish u).st.toNat = s.st.toNat - 1 ∧
      SameCore s { finish u with dt := s.dt, st := s.st } := by
  obtain ⟨hv, hi, hpc, hdt, hst, hstack, hmem, hdisp⟩ := hcore
  have hkept : SameCore s { finish u with dt := s.dt, st := s.st } :=
    ⟨(finish_v u).trans hv, (finish_i u).trans hi, (finish_pc u).trans hpc, rfl, rfl, (finish_stack u).trans hstack,
      (finish_mem u).trans hmem, (finish_disp u).trans hdisp⟩
  obtain ⟨hdt', hst'⟩ := finish_timers_toNat_of_noFault hok
  have hfetch := fetch_of_sameCore hkept
  exact ⟨hfetch, hdt ▸ hdt', hst ▸ hst', hkept⟩

/-- The rewind takes back the advance. -/
theorem sameCore_rewind_advance (s : State) :
    SameCore s (((advance s).setPc ((advance s).pc - 2)).setResult .waitingForKey) :=
  ⟨rfl, rfl, add_sub_cancel_right s.pc 2, rfl, rfl, rfl, rfl, rfl⟩

/-- Settles O48: the instruction rewinds `pc` to the word it was fetched from, and its result is no fault, so the timers
decay. -/
theorem keyWaitBlocks : Obligations.KeyWaitBlocks := by
  refine ⟨fun x s hs => ?_, fun x s hs hd => ?_⟩
  · refine ⟨_, exec_ldVxK_of_no_key x hs, ?_, rfl, fun _ _ => rfl, rfl, ⟨rfl, rfl⟩, rfl, fun _ => rfl, fun _ _ => rfl,
      rfl, rfl⟩
    have hback : s.pc - 2 + 2 = s.pc := sub_add_cancel s.pc 2
    exact (BitVec.toNat_add (s.pc - 2) 2).symm.trans (congrArg BitVec.toNat hback)
  · have hcore := sameCore_rewind_advance s
    obtain ⟨hfetch, htimers⟩ := idle_finish hcore rfl
    obtain ⟨-, -, hpc, -⟩ := hcore
    exact ⟨_, step_of_decode s _ _ hd (exec_ldVxK_of_no_key x hs), (finish_pc _).trans hpc, hfetch, finish_result _,
      htimers⟩

/-- Settles O53: the jump overwrites the advanced `pc` with the old one. -/
theorem selfJumpIdles : Obligations.SelfJumpIdles := by
  intro s hd
  have hcore : SameCore s ((advance s).setPc s.pc) := ⟨rfl, rfl, rfl, rfl, rfl, rfl, rfl, rfl⟩
  exact ⟨_, step_of_decode s _ _ hd (exec_jp s.pc (advance s)), finish_result _, idle_finish hcore rfl⟩

/-! ## The zero word, the indexed jump, the random byte -/

/-- Settles O52: the word of two zero bytes is CLS (D11), which leaves all but the display as the advance left it. -/
theorem zeroWordClearsAndGoesOn : Obligations.ZeroWordClearsAndGoesOn := by
  intro s hfirst hsecond
  have hd : decodeWord (fetch s) = .ok .cls := by
    rw [fetch, hfirst, hsecond]
    rfl
  refine ⟨_, step_of_decode s _ _ hd (exec_cls (advance s)), finish_result _, ?_, Display.cell_clear, fun _ => rfl,
    fun r _ => finish_reg _ r, finish_i _, finish_stack _⟩
  rw [finish_pc]
  exact BitVec.toNat_add s.pc 2

theorem exec_jpV0 (nnn : Addr) (s : State) :
    exec (.jpV0 nnn) s = .next (s.setPc (nnn + addrOfByte (s.reg 0))) := rfl

/-- Settles O31: the sum of two addresses is the sum of the numbers modulo 4096, and `pc` alone is written. -/
theorem jumpIndexed : Obligations.JumpIndexed := by
  refine ⟨decodesAs_row (.jpV0 0), fun nnn => ⟨toNat_wordNNN 0xB#4 nnn, fun s =>
    ⟨_, exec_jpV0 nnn s, ?_, onlyPc_setPc s _⟩⟩⟩
  rw [State.setPc_pc, BitVec.toNat_add, toNat_addrOfByte]

theorem exec_rnd (x : Reg) (nn : Byte) (s : State) : exec (.rnd x nn) s = .next (s.setReg x (s.rnd &&& nn)) := rfl

theorem rnd_of_inputs {s : State} {inp : StepInput} {rest : List StepInput} (h : s.inputs = inp :: rest) :
    s.rnd = inp.rnd := by
  rw [State.rnd, State.input, h]

/-- Settles O29: one register is written, with the byte of the step's input cut down to the bits of `nn`. -/
theorem randomByteMasked : Obligations.RandomByteMasked := by
  refine ⟨decodesAs_row (.rnd 0 0), fun x nn => ⟨toNat_wordXNN 0xC#4 x nn, fun s =>
    ⟨_, exec_rnd x nn s, reg_setReg_self s x _, onlyRegs_setReg s x _, fun k hk => ?_, fun inp rest hinp => ?_⟩⟩⟩
  · rw [reg_setReg_self, BitVec.getLsbD_and, hk, Bool.and_false]
  · rw [reg_setReg_self, rnd_of_inputs hinp]

end Sys2Proof.Machine
